-- ==== Sys2Proof/Word.lean ====
section
/-! DEFINITION. The values of SCGW, the names its fields range over, and one container per name: a value for each ring,
bank, channel or port. A value whose width the spec fixes is a bit vector of that width. A value whose width is a parameter
of R6 is an unsigned integer (R8), a `Nat`; its width stands in `Params`, its arithmetic is that of R9 under that width, and
that it stays below `2^width` is part of the invariant (`State.WidthsOk`; log 10). -/

namespace Sys2Proof

abbrev Byte := BitVec 8
abbrev Word := BitVec 32

/-- Ring identifiers (R21). -/
inductive Ring where
  | rxq | txrq | stq
deriving DecidableEq, Repr

/-- The two banks of a channel (R31, R36). -/
inductive Bank where
  | b0 | b1
deriving DecidableEq, Repr

/-- In-channels, device to host (R30): c = 0 and c = 1. -/
inductive InChan where
  | cmdIn | dataIn
deriving DecidableEq, Repr

/-- Out-channels, host to device (R30): c = 2 and c = 3. -/
inductive OutChan where
  | cmdOut | dataOut
deriving DecidableEq, Repr

/-- All four bulk channels (R30). -/
inductive Chan where
  | inn (c : InChan) | out (c : OutChan)
deriving DecidableEq, Repr

/-- The three command ports (R3). -/
inductive Port where
  | p | u | t
deriving DecidableEq, Repr

/-- The phase that `CH.BT` selects (R222). -/
inductive BitPhase where
  | nominal | data
deriving DecidableEq, Repr

/-- The other bank, `1 - b` (R33). -/
def Bank.other : Bank → Bank
  | .b0 => .b1
  | .b1 => .b0

/-- One value per ring. -/
structure PerRing (α : Type) where
  rxq : α
  txrq : α
  stq : α
deriving DecidableEq, Repr

/-- One value per bank. -/
structure PerBank (α : Type) where
  b0 : α
  b1 : α
deriving DecidableEq, Repr

/-- One value per in-channel. -/
structure PerIn (α : Type) where
  cmdIn : α
  dataIn : α
deriving DecidableEq, Repr

/-- One value per out-channel. -/
structure PerOut (α : Type) where
  cmdOut : α
  dataOut : α
deriving DecidableEq, Repr

/-- One value per port. -/
structure PerPort (α : Type) where
  p : α
  u : α
  t : α
deriving DecidableEq, Repr

def PerRing.sel {α : Type} (x : PerRing α) : Ring → α
  | .rxq => x.rxq
  | .txrq => x.txrq
  | .stq => x.stq

def PerRing.upd {α : Type} (x : PerRing α) (r : Ring) (v : α) : PerRing α :=
  match r with
  | .rxq => { x with rxq := v }
  | .txrq => { x with txrq := v }
  | .stq => { x with stq := v }

def PerBank.sel {α : Type} (x : PerBank α) : Bank → α
  | .b0 => x.b0
  | .b1 => x.b1

def PerBank.upd {α : Type} (x : PerBank α) (b : Bank) (v : α) : PerBank α :=
  match b with
  | .b0 => { x with b0 := v }
  | .b1 => { x with b1 := v }

def PerIn.sel {α : Type} (x : PerIn α) : InChan → α
  | .cmdIn => x.cmdIn
  | .dataIn => x.dataIn

def PerIn.upd {α : Type} (x : PerIn α) (c : InChan) (v : α) : PerIn α :=
  match c with
  | .cmdIn => { x with cmdIn := v }
  | .dataIn => { x with dataIn := v }

def PerOut.sel {α : Type} (x : PerOut α) : OutChan → α
  | .cmdOut => x.cmdOut
  | .dataOut => x.dataOut

def PerOut.upd {α : Type} (x : PerOut α) (c : OutChan) (v : α) : PerOut α :=
  match c with
  | .cmdOut => { x with cmdOut := v }
  | .dataOut => { x with dataOut := v }

def PerPort.sel {α : Type} (x : PerPort α) : Port → α
  | .p => x.p
  | .u => x.u
  | .t => x.t

def PerPort.upd {α : Type} (x : PerPort α) (q : Port) (v : α) : PerPort α :=
  match q with
  | .p => { x with p := v }
  | .u => { x with u := v }
  | .t => { x with t := v }

end Sys2Proof
end

