-- ==== Sys2Proof/Config.lean ====
section
/-! DEFINITION. What an implementation of SCGW fixes (R6), held as plain data, the constraints on it (R7), and the
values the spec leaves open, as opaque constants. -/

namespace Sys2Proof

/-- What a duration depends on (U3): the descriptor, the retry count, the ring and the two bit times. -/
structure DurationKey where
  desc : Nat
  retry : BitVec 8
  ring : Ring
  nmBt : Nat
  dtBt : Nat
deriving DecidableEq, Repr

/-- The parameters of R6 with their defaults there; `FEAT_PERM` and `FEAT_CONF` have none. The last four are the
parameters that 93_implementation_defined asks for: the two configuration functions of U4 and U3, each given by the
places where it departs from the spec's own definition (log 16); the pairs (feat, mask) for which the predicate
`feat_conflict` of U7 is true (log 18); and whether `desync` follows reading (ii) of U6 (log 17). -/
structure Params where
  cap : PerRing Nat := ⟨32, 32, 32⟩
  idxW : Nat := 8
  cntW : Nat := 16
  tsW : Nat := 32
  frameW : Nat := 600
  statW : Nat := 48
  batchMax : Nat := 64
  btW : Nat := 32
  frac : Nat := 16
  ifsBits : Nat := 2
  fdSbcBits : Nat := 0
  txrRetryMul : Nat := 2
  bufIn : PerIn Nat := ⟨512, 512⟩
  bufOut : PerOut Nat := ⟨512, 512⟩
  mpsIn : PerIn Nat := ⟨64, 64⟩
  mpsOut : PerOut Nat := ⟨64, 64⟩
  padLen : Nat := 4
  offW : Nat := 16
  txSlots : Nat := 32
  featW : Nat := 16
  featPerm : Nat
  featConf : Nat
  txrOverheads : List (BitVec 8 × Nat) := []
  durations : List (DurationKey × Nat) := []
  featConflicts : List (Nat × BitVec 16) := []
  desyncLiteral : Bool := false
deriving DecidableEq, Repr

/-- The constraints of R7 on one capacity: a power of two, at least 1, with `2^IDX_W >= 2 * CAP`. -/
def capValid (idxW n : Nat) : Bool := decide (2 ^ Nat.log2 n = n) && decide (2 * n ≤ 2 ^ idxW)

/-- The constraints of R7 on one channel: size `b`, packet size `m`. -/
def bufValid (P : Params) (b m : Nat) : Bool :=
  decide (1 ≤ b) && decide (1 ≤ m) && decide (b + P.padLen < 2 ^ P.offW)
    && (decide (b ≤ m) || decide (P.padLen % m ≠ 0))

/-- R7: the constraints every parameter assignment must meet, and no other. -/
def Params.valid (P : Params) : Bool :=
  capValid P.idxW P.cap.rxq && capValid P.idxW P.cap.txrq && capValid P.idxW P.cap.stq
    && bufValid P P.bufIn.cmdIn P.mpsIn.cmdIn && bufValid P P.bufIn.dataIn P.mpsIn.dataIn
    && bufValid P P.bufOut.cmdOut P.mpsOut.cmdOut && bufValid P P.bufOut.dataOut P.mpsOut.dataOut
    && decide (P.txSlots < 2 ^ 8) && decide (P.batchMax < 2 ^ 16)

/-- FREE VALUE (R6 OPEN): the permanent feature mask `FEAT_PERM`. -/
opaque Config.featPerm : BitVec 16

/-- FREE VALUE (R6 OPEN): the configurable feature mask `FEAT_CONF`. -/
opaque Config.featConf : BitVec 16

/-- FREE VALUE (U14, R262): which of several ports with a command moves at tick `n`. -/
opaque Config.turn : Nat → Nat

/-- FREE VALUE (U7): the bits reported for a request that only conflicts; the spec gives no value. -/
opaque Config.conflictBits : Nat → BitVec 16 → BitVec 16

/-- FREE VALUE (R8, R13): the `n` bits that an answer shows of a value `v` with more than `n` bits; the spec gives no
result for such a value (log 31). -/
opaque Config.unfit : (n : Nat) → Nat → BitVec n

/-- The spec's default parameters (R6). -/
def Config.defaults : Params := { featPerm := Config.featPerm.toNat, featConf := Config.featConf.toNat }

end Sys2Proof
end

