-- ==== Sys2Proof/Syntax.lean ====
section
/-! DEFINITION. The commands of SCGW: one constructor per row of the operation table R93. The fields are those of the
32-bit command word; the operand buses `opa`, `opb`, `wdata` are presented beside it (R91) and are not part of it. -/

namespace Sys2Proof

/-- A decoded command word (R93, R97). -/
inductive Instr where
  /-- `RB.PUSH r`, R124. -/
  | rbPush (r : Ring)
  /-- `TS.RXB #n`, R152. -/
  | tsRxb (n : BitVec 16)
  /-- `TS.TXB #n`, R153. -/
  | tsTxb (n : BitVec 16)
  /-- `TS.BST #code`, R163. -/
  | tsBst (code : BitVec 8)
  /-- `TS.BER #code, dir, phase`, R164. -/
  | tsBer (code : BitVec 8) (dir phase : Bool)
  /-- `RB.POPB r`, R125. -/
  | rbPopb (r : Ring)
  /-- `RB.POPN r`, R126. -/
  | rbPopn (r : Ring)
  /-- `RB.POPR r`, R127. -/
  | rbPopr (r : Ring)
  /-- `RB.STAT r`, R128. -/
  | rbStat (r : Ring)
  /-- `BC.WR c, #len`, R192. -/
  | bcWr (c : InChan) (len : BitVec 16)
  /-- `BC.RDY c`, R193. -/
  | bcRdy (c : InChan)
  /-- `BC.SUB c`, R196. -/
  | bcSub (c : InChan)
  /-- `BC.TXC c`, R198. -/
  | bcTxc (c : InChan)
  /-- `BC.RXC c, #n`, R199. -/
  | bcRxc (c : OutChan) (n : BitVec 16)
  /-- `CH.TXRQ #m`, R227. -/
  | chTxrq (m : BitVec 16)
  /-- `CH.EN #enable`, R221. -/
  | chEn (enable : Bool)
  /-- `CH.BT ph`, R222. -/
  | chBt (ph : BitPhase)
  /-- `CH.FOR #mask`, R223. -/
  | chFor (mask : BitVec 16)
  /-- `CH.FCL`, R224. -/
  | chFcl
  /-- `CH.RST`, R225. -/
  | chRst
  /-- `CH.STAT #regno`, R226. -/
  | chStat (regno : BitVec 16)
deriving DecidableEq, Repr

end Sys2Proof
end

