-- ==== Sys2Proof/WellFormed.lean ====
section
/-! DEFINITION. Which decoded commands are within the ranges of the operation table (R95 case e): the bounds that the
types of `Instr` do not already express. -/

namespace Sys2Proof

/-- R95 (e): `n <= BATCH_MAX`, `n <= BUF_SIZE[c]`, `m <= BUF_SIZE[1]`, register number `<= 14`. -/
def Instr.wellFormed (P : Params) : Instr → Bool
  | .rbPush _ => true
  | .tsRxb n => decide (n.toNat ≤ P.batchMax)
  | .tsTxb n => decide (n.toNat ≤ P.batchMax)
  | .tsBst _ => true
  | .tsBer _ _ _ => true
  | .rbPopb _ => true
  | .rbPopn _ => true
  | .rbPopr _ => true
  | .rbStat _ => true
  | .bcWr _ _ => true
  | .bcRdy _ => true
  | .bcSub _ => true
  | .bcTxc _ => true
  | .bcRxc c n => decide (n.toNat ≤ P.bufOut.sel c)
  | .chTxrq m => decide (m.toNat ≤ P.bufIn.sel .dataIn)
  | .chEn _ => true
  | .chBt _ => true
  | .chFor _ => true
  | .chFcl => true
  | .chRst => true
  | .chStat regno => decide (regno.toNat ≤ 14)

end Sys2Proof
end

