-- ==== Sys2Proof/Decode.lean ====
section
/-! DEFINITION. The decoder of command words (R90, R93, R95, R99) and, after it, the encoder. The decoder is total: a word
that is no command is rejected by the name of the case of R95 it falls under. -/

namespace Sys2Proof

/-- Why a word is no command (R95). -/
inductive DecodeError where
  /-- case (a): `op` is not one of the 21 numbers of R93. -/
  | reservedOp
  /-- case (c): the `zero` field is not 0. -/
  | zeroField
  /-- case (d): `sel` is outside its row's range. -/
  | selRange
  /-- case (e): a bit of `imm16` is set where the row says 0. -/
  | immBits
  /-- case (e): `imm16` is above the row's bound. -/
  | outOfRange
deriving DecidableEq, Repr

/-- `op` = bits 31:24 (R90). -/
def wordOp (w : Word) : BitVec 8 := w.extractLsb' 24 8
/-- `sel` = bits 23:20 (R90). -/
def wordSel (w : Word) : BitVec 4 := w.extractLsb' 20 4
/-- `zero` = bits 19:16 (R90). -/
def wordZero (w : Word) : BitVec 4 := w.extractLsb' 16 4
/-- `imm16` = bits 15:0 (R90). -/
def wordImm (w : Word) : BitVec 16 := w.extractLsb' 0 16

/-- r = `sel` (R97), 0 to 2. -/
def selRing (sel : BitVec 4) : Except DecodeError Ring :=
  if sel = 0 then .ok .rxq else if sel = 1 then .ok .txrq else if sel = 2 then .ok .stq else .error .selRange

/-- c = `sel` of an in-channel, 0 or 1. -/
def selIn (sel : BitVec 4) : Except DecodeError InChan :=
  if sel = 0 then .ok .cmdIn else if sel = 1 then .ok .dataIn else .error .selRange

/-- c = `sel` of an out-channel, 2 or 3. -/
def selOut (sel : BitVec 4) : Except DecodeError OutChan :=
  if sel = 2 then .ok .cmdOut else if sel = 3 then .ok .dataOut else .error .selRange

/-- ph = `sel` of `CH.BT`, 0 nominal or 1 data. -/
def selPhase (sel : BitVec 4) : Except DecodeError BitPhase :=
  if sel = 0 then .ok .nominal else if sel = 1 then .ok .data else .error .selRange

/-- `sel` of a row that has none: 0. -/
def selNone (sel : BitVec 4) : Except DecodeError Unit :=
  if sel = 0 then .ok () else .error .selRange

/-- Bits of `imm16` that the row says are 0. -/
def immClear (imm mask : BitVec 16) : Except DecodeError Unit :=
  if imm &&& mask = 0 then .ok () else .error .immBits

/-- A row with a ring in `sel` and `imm16` = 0. -/
def rowRing (mk : Ring → Instr) (sel : BitVec 4) (imm : BitVec 16) : Except DecodeError Instr :=
  (selRing sel).bind fun r => (immClear imm 0xFFFF).map fun _ => mk r

/-- A row with an in-channel in `sel` and `imm16` = 0. -/
def rowIn (mk : InChan → Instr) (sel : BitVec 4) (imm : BitVec 16) : Except DecodeError Instr :=
  (selIn sel).bind fun c => (immClear imm 0xFFFF).map fun _ => mk c

/-- A row with `sel` = 0 and the bits of `mask` in `imm16` clear. -/
def rowImm (mk : BitVec 16 → Instr) (mask : BitVec 16) (sel : BitVec 4) (imm : BitVec 16) :
    Except DecodeError Instr :=
  (selNone sel).bind fun _ => (immClear imm mask).map fun _ => mk imm

/-- The row of operation number `op` (R93) applied to the other fields; `none` where `op` is reserved (R96). -/
def decodeRow (op : BitVec 8) (sel : BitVec 4) (imm : BitVec 16) : Option (Except DecodeError Instr) :=
  if op = 0x10 then some (rowRing .rbPush sel imm)
  else if op = 0x11 then some (rowImm .tsRxb 0 sel imm)
  else if op = 0x12 then some (rowImm .tsTxb 0 sel imm)
  else if op = 0x13 then some (rowImm (fun i => .tsBst (i.extractLsb' 0 8)) 0xFF00 sel imm)
  else if op = 0x14 then
    some (rowImm (fun i => .tsBer (i.extractLsb' 0 8) (i.getLsbD 8) (i.getLsbD 9)) 0xFC00 sel imm)
  else if op = 0x20 then some (rowRing .rbPopb sel imm)
  else if op = 0x21 then some (rowRing .rbPopn sel imm)
  else if op = 0x22 then some (rowRing .rbPopr sel imm)
  else if op = 0x23 then some (rowRing .rbStat sel imm)
  else if op = 0x30 then some ((selIn sel).map fun c => .bcWr c imm)
  else if op = 0x31 then some (rowIn .bcRdy sel imm)
  else if op = 0x32 then some (rowIn .bcSub sel imm)
  else if op = 0x38 then some (rowIn .bcTxc sel imm)
  else if op = 0x39 then some ((selOut sel).map fun c => .bcRxc c imm)
  else if op = 0x3A then some (rowImm .chTxrq 0 sel imm)
  else if op = 0x40 then some (rowImm (fun i => .chEn (i.getLsbD 0)) 0xFFFE sel imm)
  else if op = 0x41 then
    some ((selPhase sel).bind fun ph => (immClear imm 0xFFFF).map fun _ => .chBt ph)
  else if op = 0x42 then some (rowImm .chFor 0 sel imm)
  else if op = 0x43 then some (rowImm (fun _ => .chFcl) 0xFFFF sel imm)
  else if op = 0x44 then some (rowImm (fun _ => .chRst) 0xFFFF sel imm)
  else if op = 0x45 then some (rowImm .chStat 0 sel imm)
  else none

/-- R99: look up `op`, then check `zero`, `sel` and the fixed bits of `imm16`. The bounds that depend on the parameters
or on the port are checked where the command is carried out (`State.legal`). -/
def decodeWord (w : Word) : Except DecodeError Instr :=
  match decodeRow (wordOp w) (wordSel w) (wordImm w) with
  | none => .error .reservedOp
  | some row => if wordZero w = 0 then row else .error .zeroField

/-- R95 (e), the bounds of the rows under parameters `P`. -/
def Instr.inBounds (P : Params) : Instr → Bool
  | .tsRxb n => decide (n.toNat ≤ P.batchMax)
  | .tsTxb n => decide (n.toNat ≤ P.batchMax)
  | .bcRxc c n => decide (n.toNat ≤ P.bufOut.sel c)
  | .chTxrq m => decide (m.toNat ≤ P.bufIn.sel .dataIn)
  | .chStat regno => decide (regno.toNat ≤ 14)
  | .rbPush _ => true
  | .tsBst _ => true
  | .tsBer _ _ _ => true
  | .rbPopb _ => true
  | .rbPopn _ => true
  | .rbPopr _ => true
  | .rbStat _ => true
  | .bcWr _ _ => true
  | .bcRdy _ => true
  | .bcSub _ => true
  | .bcTxc _ => true
  | .chEn _ => true
  | .chBt _ => true
  | .chFor _ => true
  | .chFcl => true
  | .chRst => true

/-- The whole decoder under parameters `P`: the word's fields, then the row's bounds. -/
def decode (P : Params) (w : Word) : Except DecodeError Instr :=
  (decodeWord w).bind fun i => if i.inBounds P then .ok i else .error .outOfRange

/-- R93, R94: the ports on which a command exists. -/
def Instr.ports : Instr → List Port
  | .rbPush _ => [.p]
  | .tsRxb _ => [.p]
  | .tsTxb _ => [.p]
  | .tsBst _ => [.p]
  | .tsBer _ _ _ => [.p]
  | .rbPopb _ => [.t]
  | .rbPopn _ => [.t]
  | .rbPopr _ => [.t]
  | .rbStat _ => [.t]
  | .bcWr _ _ => [.t, .u]
  | .bcRdy _ => [.t, .u]
  | .bcSub _ => [.t, .u]
  | .bcTxc _ => [.u]
  | .bcRxc _ _ => [.u]
  | .chTxrq _ => [.u]
  | .chEn _ => [.t, .u]
  | .chBt _ => [.t, .u]
  | .chFor _ => [.t, .u]
  | .chFcl => [.t, .u]
  | .chRst => [.t, .u]
  | .chStat _ => [.t, .u]

/-- The decoder on a word numbered as spec/opcode_table.json numbers it, under the default parameters. A command is
one 32-bit number on a port, so no byte order enters (log 24). -/
def decodeTableWord (nbits w : Nat) : Option Instr :=
  if nbits ≤ 32 then (decode Config.defaults (BitVec.ofNat 32 (w % 2 ^ nbits))).toOption else none

/-- The number of a ring (R21). -/
def Ring.code : Ring → BitVec 4
  | .rxq => 0
  | .txrq => 1
  | .stq => 2

/-- The number of an in-channel (R30). -/
def InChan.code : InChan → BitVec 4
  | .cmdIn => 0
  | .dataIn => 1

/-- The number of an out-channel (R30). -/
def OutChan.code : OutChan → BitVec 4
  | .cmdOut => 2
  | .dataOut => 3

/-- The number of a bit-timing phase (R97). -/
def BitPhase.code : BitPhase → BitVec 4
  | .nominal => 0
  | .data => 1

/-- Operation numbers (R93). -/
def Instr.opcode : Instr → BitVec 8
  | .rbPush _ => 0x10
  | .tsRxb _ => 0x11
  | .tsTxb _ => 0x12
  | .tsBst _ => 0x13
  | .tsBer _ _ _ => 0x14
  | .rbPopb _ => 0x20
  | .rbPopn _ => 0x21
  | .rbPopr _ => 0x22
  | .rbStat _ => 0x23
  | .bcWr _ _ => 0x30
  | .bcRdy _ => 0x31
  | .bcSub _ => 0x32
  | .bcTxc _ => 0x38
  | .bcRxc _ _ => 0x39
  | .chTxrq _ => 0x3A
  | .chEn _ => 0x40
  | .chBt _ => 0x41
  | .chFor _ => 0x42
  | .chFcl => 0x43
  | .chRst => 0x44
  | .chStat _ => 0x45

/-- The `sel` field of a command (R93). -/
def Instr.selField : Instr → BitVec 4
  | .rbPush r => r.code
  | .rbPopb r => r.code
  | .rbPopn r => r.code
  | .rbPopr r => r.code
  | .rbStat r => r.code
  | .bcWr c _ => c.code
  | .bcRdy c => c.code
  | .bcSub c => c.code
  | .bcTxc c => c.code
  | .bcRxc c _ => c.code
  | .chBt ph => ph.code
  | .tsRxb _ => 0
  | .tsTxb _ => 0
  | .tsBst _ => 0
  | .tsBer _ _ _ => 0
  | .chTxrq _ => 0
  | .chEn _ => 0
  | .chFor _ => 0
  | .chFcl => 0
  | .chRst => 0
  | .chStat _ => 0

/-- The `imm16` field of a command (R93, R97). -/
def Instr.immField : Instr → BitVec 16
  | .tsRxb n => n
  | .tsTxb n => n
  | .tsBst code => code.setWidth 16
  | .tsBer code dir phase => 0#6 ++ BitVec.ofBool phase ++ BitVec.ofBool dir ++ code
  | .bcWr _ len => len
  | .bcRxc _ n => n
  | .chTxrq m => m
  | .chEn enable => (BitVec.ofBool enable).setWidth 16
  | .chFor mask => mask
  | .chStat regno => regno
  | .rbPush _ => 0
  | .rbPopb _ => 0
  | .rbPopn _ => 0
  | .rbPopr _ => 0
  | .rbStat _ => 0
  | .bcRdy _ => 0
  | .bcSub _ => 0
  | .bcTxc _ => 0
  | .chBt _ => 0
  | .chFcl => 0
  | .chRst => 0

/-- The command word with these fields and `zero` = 0 (R90). -/
def assemble (op : BitVec 8) (sel : BitVec 4) (imm : BitVec 16) : Word := op ++ sel ++ 0#4 ++ imm

/-- The encoder (R90, R93). -/
def encode (i : Instr) : Word := assemble i.opcode i.selField i.immField

end Sys2Proof
end

