-- ==== Sys2Proof/Machine/State.lean ====
section
/-! DEFINITION. The state of SCGW (10_state R20 to R49), its commands, responses and output events, the reasons for which
a step can stop, and the state after power-on reset. -/

namespace Sys2Proof.Machine

/-- A storage space of R60 with units of type `α`: pairs of a key and what a rule has written there. Canonical form
(`Memory.Wf`): keys strictly rising. A key that is not listed holds no value (U1; log 12). Of bytes this is a list of
`Host.Cell`. -/
abbrev Memory (α : Type) := List (Nat × α)

/-- The producer sequencer phase `p_phase` (R40). -/
inductive Phase where
  | idle | pushWr | pushPub | pass1 | pass2 | batchPub
deriving DecidableEq, Repr

/-- A command as an agent presents it: the word and its operand buses (R91), of which `wdata` is as wide as the operation
needs (log 11). -/
structure Command where
  word : Word
  opa : Word
  opb : Word
  wdata : Nat
deriving DecidableEq, Repr

/-- The response to a command (R13). Fields a rule does not mention are 0 (R92). `val` has 32 bits, and on
`RB.STAT` the `16 + CNT_W` that R128 asks for where those are more; `rdata` has at most `FRAME_W`: both are Nats because
these widths are parameters (log 10). -/
structure Response where
  ok : Bool
  err : BitVec 4 := 0
  val : Nat := 0
  rdata : Nat := 0
deriving DecidableEq, Repr

/-- The output events (R260). -/
inductive Event where
  /-- `Wake(r)`: ring r has new entries. -/
  | wake (r : Ring)
  /-- `XferStart(c, b, L)`: a bank is handed to the transport. -/
  | xferStart (c : Chan) (b : Bank) (len : Nat)
  /-- `RxDeliver(c, b, n)`: n received bytes are in the bank. -/
  | rxDeliver (c : OutChan) (b : Bank) (n : BitVec 16)
  /-- `RequestTransmit(frame)`. -/
  | requestTransmit (frame : Nat)
  /-- `SetBitTiming(ph, brp, tseg1, tseg2, sjw)`. -/
  | setBitTiming (ph : BitPhase) (brp tseg1 tseg2 sjw : BitVec 16)
  /-- `SetFeatures(feat)`. -/
  | setFeatures (feat : Nat)
  /-- `Enable(e)`. -/
  | enable (e : Bool)
  /-- `Halted(cause)`. -/
  | halted (cause : BitVec 4)
deriving DecidableEq, Repr

/-- What the block puts out, in order: an event, or the response on a port (log 4). -/
inductive Output where
  | event (e : Event)
  | response (onPort : Port) (r : Response)
deriving DecidableEq, Repr

/-- The whole state. Fields carry the spec's names in Lean spelling; the last six are the model's own
(INVENTORY.md, ## State). -/
structure State where
  /-- `put[r]`, `IDX_W` bits, R22. -/
  put : PerRing Nat
  /-- `get[r]`, `IDX_W` bits, R23. -/
  get : PerRing Nat
  /-- `lost[r]`, `CNT_W` bits, R25. -/
  lost : PerRing Nat
  /-- `c_cur[r]`, `IDX_W` bits, R38. -/
  cCur : PerRing Nat
  /-- `c_lim[r]`, `IDX_W` bits, R38. -/
  cLim : PerRing Nat
  /-- `slot[0]`, `FRAME_W` bits each, R24. -/
  slotRx : Memory Nat
  /-- `slot[1]`, `FRAME_W` bits each, R24. -/
  slotTx : Memory Nat
  /-- `slot[2]`, `STAT_W` bits each, R24. -/
  slotSt : Memory Nat
  /-- `p_phase`, R40. -/
  pPhase : Phase
  /-- `p_ring`, R39. -/
  pRing : Ring
  /-- `p_n`, R39. -/
  pN : BitVec 16
  /-- `p_i`, R39. -/
  pI : BitVec 16
  /-- `p_t`, `TS_W` bits, R39. -/
  pT : Nat
  /-- `p_put`, `IDX_W` bits, R39. -/
  pPut : Nat
  /-- `p_stored`, R39. -/
  pStored : BitVec 16
  /-- `p_dropped`, R39. -/
  pDropped : BitVec 16
  /-- `p_retry`, R39. -/
  pRetry : BitVec 8
  /-- `p_desc`, as wide as the latched bus, R39. -/
  pDesc : Nat
  /-- `p_tmp`, `TS_W` bits each, R41. -/
  pTmp : Memory Nat
  /-- `bank[c][b]`, R31. -/
  bank : PerIn (PerBank (Memory Byte))
  /-- `off[c][b]`, `OFF_W` bits, R32. -/
  off : PerIn (PerBank Nat)
  /-- `act[c]`, R33. -/
  act : PerIn Bank
  /-- `rbank[c][b]`, R36. -/
  rbank : PerOut (PerBank (Memory Byte))
  /-- `ract[c]`, R36. -/
  ract : PerOut Bank
  /-- `en`, R37. -/
  en : Bool
  /-- `feat`, `FEAT_W` bits, R45. -/
  feat : Nat
  /-- `nm_bt`, `BT_W` bits, R45. -/
  nmBt : Nat
  /-- `dt_bt`, `BT_W` bits, R45. -/
  dtBt : Nat
  /-- `nm_brp`, R45. -/
  nmBrp : BitVec 16
  /-- `nm_tseg1`, R45. -/
  nmTseg1 : BitVec 16
  /-- `nm_tseg2`, R45. -/
  nmTseg2 : BitVec 16
  /-- `nm_sjw`, R45. -/
  nmSjw : BitVec 16
  /-- `dt_brp`, R45. -/
  dtBrp : BitVec 16
  /-- `dt_tseg1`, R45. -/
  dtTseg1 : BitVec 16
  /-- `dt_tseg2`, R45. -/
  dtTseg2 : BitVec 16
  /-- `dt_sjw`, R45. -/
  dtSjw : BitVec 16
  /-- `tx_avail`, R42. -/
  txAvail : BitVec 8
  /-- `tx_dropped`, `CNT_W` bits, R43. -/
  txDropped : Nat
  /-- `desync`, R44. -/
  desync : Bool
  /-- `halted`, R46. -/
  halted : Bool
  /-- `halt_cause`, R46. -/
  haltCause : BitVec 4
  /-- MODEL: the parameters of R6; never written (log 8). -/
  cfg : Params
  /-- MODEL: per port the command presented now, then those presented later (log 3). -/
  input : PerPort (List Command)
  /-- MODEL: the outputs so far, oldest first; never read (log 4). -/
  log : List Output
  /-- MODEL: the ports in the order in which they move next (log 2). -/
  turns : List Port
  /-- MODEL: counts steps; the free order of ports is applied to it (log 2). -/
  ticks : Nat
  /-- MODEL: the port whose micro-step is being performed (log 22). -/
  port : Port
deriving DecidableEq, Repr

/-- Stops of the model at states that no rule produces. All are SAFE: nothing is proved of what follows. -/
inductive Fault where
  /-- Raised by `RB.POPN`: the slot at the cursor was never written (U1 "`fault` if read"; log 12). Safe. -/
  | unwrittenSlot
  /-- Raised by a PASS2 step: the scratch word was never written (U1; log 13). Safe. -/
  | unwrittenScratch
  /-- Raised by a PASS1 step: the scratch has no word of that index (R60 (5); log 13). Safe. -/
  | scratchRange
  /-- Raised by a submit: the padding block would lie outside the bank (R60 (3), R31; log 15). Safe. -/
  | bankRange
deriving DecidableEq, Repr

/-- Refusals. All are SAFE: nothing is proved of what follows. -/
inductive Refusal where
  /-- Raised by `exec` for an instruction that has no meaning yet; no arm does. Safe. -/
  | notModelled (mnemonic : String)
  /-- Raised on port P when another command stands there before the response to the one in progress (R266 (c): "a
  model with a total step function refuses them without state change"; log 7). Safe. -/
  | commandWhileBusy
deriving DecidableEq, Repr

/-- What one micro-step answers. -/
abbrev Result := Host.Outcome State Fault Refusal

/-- Power-on reset (R49, R280). `p_desc` and the model's own fields hold values that the log names (logs 2, 14, 22). -/
def State.reset : State where
  put := ⟨0, 0, 0⟩
  get := ⟨0, 0, 0⟩
  lost := ⟨0, 0, 0⟩
  cCur := ⟨0, 0, 0⟩
  cLim := ⟨0, 0, 0⟩
  slotRx := []
  slotTx := []
  slotSt := []
  pPhase := .idle
  pRing := .rxq
  pN := 0
  pI := 0
  pT := 0
  pPut := 0
  pStored := 0
  pDropped := 0
  pRetry := 0
  pDesc := 0
  pTmp := []
  bank := ⟨⟨[], []⟩, ⟨[], []⟩⟩
  off := ⟨⟨0, 0⟩, ⟨0, 0⟩⟩
  act := ⟨.b0, .b0⟩
  rbank := ⟨⟨[], []⟩, ⟨[], []⟩⟩
  ract := ⟨.b0, .b0⟩
  en := false
  feat := Config.defaults.featPerm
  nmBt := 0
  dtBt := 0
  nmBrp := 0
  nmTseg1 := 0
  nmTseg2 := 0
  nmSjw := 0
  dtBrp := 0
  dtTseg1 := 0
  dtTseg2 := 0
  dtSjw := 0
  txAvail := BitVec.ofNat 8 Config.defaults.txSlots
  txDropped := 0
  desync := false
  halted := false
  haltCause := 0
  cfg := Config.defaults
  input := ⟨[], [], []⟩
  log := []
  turns := []
  ticks := 0
  port := .p

end Sys2Proof.Machine
end

