-- ==== Sys2Proof/Machine/Ops.lean ====
section
/-! DEFINITION. The arithmetic and the slices of R8 and R9, and the named operations over storage, ports and outputs:
reading and writing a storage space, slots and banks, emitting an event, ending a command with its response, and the halt,
the block's only trap-like action (R255). There is no return from it (R257). -/

namespace Sys2Proof.Machine

/-- `a +W b` (R9). -/
def addW (w a b : Nat) : Nat := (a + b) % 2 ^ w

/-- `a -W b` (R9): never negative. -/
def subW (w a b : Nat) : Nat := (a + (2 ^ w - b % 2 ^ w)) % 2 ^ w

/-- `v[lo+n-1:lo]` (R8): `n` bits of `v` from bit `lo` on. -/
def slice (v lo n : Nat) : Nat := (v >>> lo) % 2 ^ n

/-- `zext_n(v)` (R8): `v` with `n` bits. A `v` with more bits than that, which takes a parameter far above its default, has
no value there in the spec: it is a free value of `n` bits (log 31). -/
def zext (n v : Nat) : Nat := if v < 2 ^ n then v else (Config.unfit n v).toNat

/-- `{a, b}` with `b` of `n` bits (R8). -/
def cat (a n b : Nat) : Nat := a * 2 ^ n + b

/-- The canonical form of a storage space: keys strictly rising. -/
abbrev Memory.Wf {α : Type} (m : Memory α) : Prop := m.Pairwise fun x y => x.1 < y.1

/-- Reading one unit. A key that no rule has written holds no value (U1; log 12). -/
def Memory.read {α : Type} : Memory α → Nat → Option α
  | [], _ => none
  | (k, v) :: m, a => if k = a then some v else Memory.read m a

/-- The cells of a run of values from key `a` on. -/
def cellsFrom {α : Type} : Nat → List α → Memory α
  | _, [] => []
  | a, v :: vs => (a, v) :: cellsFrom (a + 1) vs

/-- Writing the run `vs` at keys `a`, `a + 1`, …, replacing what stood there. -/
def Memory.writeRun {α : Type} (m : Memory α) (a : Nat) (vs : List α) : Memory α :=
  m.filter (fun x => decide (x.1 < a)) ++ cellsFrom a vs ++ m.filter (fun x => decide (a + vs.length ≤ x.1))

/-- Writing one unit. -/
def Memory.write {α : Type} (m : Memory α) (a : Nat) (v : α) : Memory α := m.writeRun a [v]

/-- Every key is below `n`: the space has `n` units (R60). -/
abbrev Memory.Within {α : Type} (m : Memory α) (n : Nat) : Prop := ∀ x ∈ m, x.1 < n

/-- Slot addressing: free-running index `i` of ring r is slot `i mod CAP[r]` (R61). -/
def State.slotIndex (s : State) (r : Ring) (i : Nat) : Nat := i % s.cfg.cap.sel r

/-- The width of an entry of ring r (R24): `FRAME_W`, or `STAT_W` on STQ. -/
def State.entryWidth (s : State) (r : Ring) : Nat :=
  match r with
  | .rxq => s.cfg.frameW
  | .txrq => s.cfg.frameW
  | .stq => s.cfg.statW

/-- The entry in slot `k` of ring r, a status entry zero-extended (log 26). -/
def State.readSlotAt (s : State) (r : Ring) (k : Nat) : Option Nat :=
  match r with
  | .rxq => s.slotRx.read k
  | .txrq => s.slotTx.read k
  | .stq => s.slotSt.read k

/-- The entry with free-running index `i` (R61). -/
def State.readSlot (s : State) (r : Ring) (i : Nat) : Option Nat := s.readSlotAt r (s.slotIndex r i)

/-- Writing a whole entry, all bits verbatim (R28): as many as the slot has. -/
def State.writeSlot (s : State) (r : Ring) (i : Nat) (e : Nat) : State :=
  match r with
  | .rxq => { s with slotRx := s.slotRx.write (s.slotIndex .rxq i) (e % 2 ^ s.entryWidth .rxq) }
  | .txrq => { s with slotTx := s.slotTx.write (s.slotIndex .txrq i) (e % 2 ^ s.entryWidth .txrq) }
  | .stq => { s with slotSt := s.slotSt.write (s.slotIndex .stq i) (e % 2 ^ s.entryWidth .stq) }

/-- One value of bank b of in-channel c. -/
def State.offOf (s : State) (c : InChan) (b : Bank) : Nat := (s.off.sel c).sel b

/-- `off[c][b] <- v`. -/
def State.setOff (s : State) (c : InChan) (b : Bank) (v : Nat) : State :=
  { s with off := s.off.upd c ((s.off.sel c).upd b v) }

/-- Byte `k` of transmit bank b of in-channel c (R63). -/
def State.readBank (s : State) (c : InChan) (b : Bank) (k : Nat) : Option Byte := ((s.bank.sel c).sel b).read k

/-- `bank[c][b][k .. k+n-1] <- bytes`. -/
def State.writeBank (s : State) (c : InChan) (b : Bank) (k : Nat) (bytes : List Byte) : State :=
  { s with bank := s.bank.upd c ((s.bank.sel c).upd b (((s.bank.sel c).sel b).writeRun k bytes)) }

/-- Byte `k` of receive bank b of out-channel c (R36). -/
def State.readRbank (s : State) (c : OutChan) (b : Bank) (k : Nat) : Option Byte := ((s.rbank.sel c).sel b).read k

/-- `rbank[c][b][0 .. n-1] <- bytes`. -/
def State.writeRbank (s : State) (c : OutChan) (b : Bank) (bytes : List Byte) : State :=
  { s with rbank := s.rbank.upd c ((s.rbank.sel c).upd b (((s.rbank.sel c).sel b).writeRun 0 bytes)) }

/-- The bytes `bank[c][b][0..L-1]` that the transport reads while the bank is in flight (R75, R260; log 28); `none`
for a byte that no rule has written. -/
def State.transferBytes (s : State) (c : InChan) (b : Bank) (len : Nat) : List (Option Byte) :=
  (List.range len).map fun k => s.readBank c b k

/-- `rsp_err` = 1, ILLEGAL (R258). -/
def errIllegal : BitVec 4 := 1
/-- `rsp_err` = 2, HALTED (R258). -/
def errHalted : BitVec 4 := 2
/-- `rsp_err` = 3, FEATURE (R258). -/
def errFeature : BitVec 4 := 3

/-- `emit E` (R11, R260). -/
def State.emit (s : State) (e : Event) : State := { s with log := s.log ++ [.event e] }

/-- `respond(…)`: the command on the port ends with this response, and the port may present its next one (R11, R13,
D42). -/
def State.respond (s : State) (r : Response) : State :=
  { s with log := s.log ++ [.response s.port r], input := s.input.upd s.port (s.input.sel s.port).tail }

/-- The answer of a halted block to every command (R256). -/
def State.refuseHalted (s : State) : State :=
  s.respond { ok := false, err := errHalted, val := s.haltCause.toNat }

/-- The answer to an illegal command: no state change, no event (R95). -/
def State.refuseIllegal (s : State) : State := s.respond { ok := false, err := errIllegal }

/-- `halt(cause)` (R255): the bit, the cause, the event, and the command in progress ends. Nothing else is written. -/
def State.halt (s : State) (cause : BitVec 4) : State :=
  ({ s with halted := true, haltCause := cause }.emit (.halted cause)).respond
    { ok := false, err := errHalted, val := cause.toNat }

/-- Halt cause 1, RING_INVARIANT (R254). -/
def causeRing : BitVec 4 := 1
/-- Halt cause 2, SUBMIT_NOT_READY (R254). -/
def causeSubmit : BitVec 4 := 2

end Sys2Proof.Machine
end

