-- ==== Sys2Proof/Machine/Flags.lean ====
section
/-! DEFINITION. Everything the block computes that is a flag, a fill level or a saturating count: R10, R29, R34, R121. No
operation has condition codes. -/

namespace Sys2Proof.Machine

/-- `satinc` (R10): one more, or the same at `2^CNT_W - 1`. -/
def satinc (cntW : Nat) (c : Nat) : Nat := if c < 2 ^ cntW - 1 then c + 1 else c

/-- `fill(p, g) = (p - g) mod 2^IDX_W` (R121). -/
def fill (idxW : Nat) (p g : Nat) : Nat := subW idxW p g

/-- `CAP[r]`. -/
def State.cap (s : State) (r : Ring) : Nat := s.cfg.cap.sel r

/-- `used(r)` (R29). -/
def State.used (s : State) (r : Ring) : Nat := fill s.cfg.idxW (s.put.sel r) (s.get.sel r)

/-- The test of `chk(r, p, g)` with `g` the get index (R121): the fill level exceeds the capacity. -/
def State.overfull (s : State) (r : Ring) (p : Nat) : Bool := decide (s.cap r < fill s.cfg.idxW p (s.get.sel r))

/-- Full: the fill level is `CAP[r]` (R29, R121). -/
def State.full (s : State) (r : Ring) (p : Nat) : Bool := decide (fill s.cfg.idxW p (s.get.sel r) = s.cap r)

/-- `off[c][act[c]]`. -/
def State.actOff (s : State) (c : InChan) : Nat := s.offOf c (s.act.sel c)

/-- `off[c][1 - act[c]]`. -/
def State.idleOff (s : State) (c : InChan) : Nat := s.offOf c (s.act.sel c).other

/-- `is_ready(c)` (R34). -/
def State.isReady (s : State) (c : InChan) : Bool := decide (s.idleOff c = 0)

/-- `ready_to_submit(c)` (R34). -/
def State.readyToSubmit (s : State) (c : InChan) : Bool := decide (s.actOff c ≠ 0) && decide (s.idleOff c = 0)

/-- `in_flight(c)` (R34). -/
def State.inFlight (s : State) (c : InChan) : Bool := decide (s.idleOff c ≠ 0)

/-- Bits of a feature request outside `FEAT_PERM | FEAT_CONF` (R223), of which the 16 bits of a request see the low 16. -/
def State.badFeatures (s : State) (mask : BitVec 16) : BitVec 16 :=
  mask &&& ~~~(BitVec.ofNat 16 (s.cfg.featPerm ||| s.cfg.featConf))

/-- `feat_conflict(feat, mask)` (U7), false by default. -/
def State.featConflict (s : State) (mask : BitVec 16) : Bool := s.cfg.featConflicts.contains (s.feat, mask)

/-- `min(TX_SLOTS, tx_avail + n)` (R155). -/
def State.raisedSlots (s : State) (n : BitVec 16) : BitVec 8 :=
  BitVec.ofNat 8 (min s.cfg.txSlots (s.txAvail.toNat + n.toNat))

end Sys2Proof.Machine
end

