-- ==== Sys2Proof/Machine/Operands.lean ====
section
/-! DEFINITION. Operand assembly (R97): the buses of the command on the port, the slices each operation takes from them,
the fields of an entry (R26, R27), and the legality of a command on its port (R95). -/

namespace Sys2Proof.Machine

/-- The command presented on a port (R91). -/
def State.presented (s : State) (q : Port) : Option Command := (s.input.sel q).head?

/-- `opa` of the command in progress. -/
def State.opa (s : State) : Word := ((s.presented s.port).map (·.opa)).getD 0

/-- `opb` of the command in progress. -/
def State.opb (s : State) : Word := ((s.presented s.port).map (·.opb)).getD 0

/-- `wdata` of the command in progress. -/
def State.wdata (s : State) : Nat := ((s.presented s.port).map (·.wdata)).getD 0

/-- `retry` = `opb[7:0]` (R97). -/
def State.retry (s : State) : BitVec 8 := s.opb.extractLsb' 0 8

/-- `ts` and `poll_ts` = `opa`, as a `TS_W`-bit timestamp (R97). -/
def State.time (s : State) : Nat := s.opa.toNat % 2 ^ s.cfg.tsW

/-- `bt` = `opa`, as a `BT_W`-bit bit time (R97). -/
def State.bitTime (s : State) : Nat := s.opa.toNat % 2 ^ s.cfg.btW

/-- One entry of ring r: `wdata[FRAME_W-1:0]`, or `wdata[STAT_W-1:0]` on STQ (R124). -/
def State.wEntry (s : State) (r : Ring) : Nat := slice s.wdata 0 (s.entryWidth r)

/-- One frame record: `wdata[FRAME_W-1:0]` (R227). -/
def State.wFrame (s : State) : Nat := slice s.wdata 0 s.cfg.frameW

/-- Descriptor `i` of a batch: `wdata[FRAME_W*i+FRAME_W-1 : FRAME_W*i]`, i = 0 the oldest (R97, R151). -/
def descriptor (P : Params) (w : Nat) (i : Nat) : Nat := slice w (P.frameW * i) P.frameW

/-- 16 bits of `wdata` from bit `lo` on: a timing parameter of `CH.BT` (R97). -/
def State.wHalf (s : State) (lo : Nat) : BitVec 16 := BitVec.ofNat 16 (slice s.wdata lo 16)

/-- `n` bytes of a bus from bit `base` on: byte k is bits `base+8k+7 : base+8k` (R97). -/
def busBytes (w : Nat) (base n : Nat) : List Byte :=
  (List.range n).map fun k => BitVec.ofNat 8 (slice w (base + 8 * k) 8)

/-- Byte operand of length `n`: byte k is `wdata[8k+7:8k]` (R97). -/
def State.wBytes (s : State) (n : BitVec 16) : List Byte := busBytes s.wdata 0 n.toNat

/-- The receipt of `CH.TXRQ`: byte k is the k-th byte above the frame record, `wdata[600+8k+7 : 600+8k]` at the default
`FRAME_W` (R227). -/
def State.receipt (s : State) (m : BitVec 16) : List Byte := busBytes s.wdata s.cfg.frameW m.toNat

/-- `xtd`, bit 0 (R26). -/
def frameXtd (e : Nat) : Bool := e.testBit 0
/-- `rtr`, bit 1 (R26). -/
def frameRtr (e : Nat) : Bool := e.testBit 1
/-- `fdf`, bit 2 (R26). -/
def frameFdf (e : Nat) : Bool := e.testBit 2
/-- `brs`, bit 3 (R26). -/
def frameBrs (e : Nat) : Bool := e.testBit 3
/-- `dlc`, bits 11:8 (R26). -/
def frameDlc (e : Nat) : BitVec 4 := BitVec.ofNat 4 (slice e 8 4)
/-- The lowest bit of `timestamp_us` in a frame entry (R26); the field has `TS_W` bits, so it is bits 599:568 at the
default (log 10). -/
def timeBit : Nat := 568
/-- `timestamp_us` of a frame entry (R26). -/
def frameTime (P : Params) (e : Nat) : Nat := slice e timeBit P.tsW

/-- `e[599:568] <- t`, the rest verbatim (R155). -/
def withTime (P : Params) (e : Nat) (t : Nat) : Nat :=
  cat (cat (e >>> (timeBit + P.tsW)) P.tsW t) timeBit (slice e 0 timeBit)

/-- A status entry `{ts, code, 5'b0, phase, direction, kind}` (R27, R163, R164). -/
def statusEntry (ts : Nat) (code : BitVec 8) (phase dir kind : Bool) : Nat :=
  cat (cat (cat (cat (cat ts 8 code.toNat) 5 0) 1 phase.toNat) 1 dir.toNat) 1 kind.toNat

/-- R95 (f): `TS.TXB` needs `opb[31:8]` = 0. -/
def State.opbClear (s : State) (i : Instr) : Bool :=
  match i with
  | .tsTxb _ => decide (s.opb.extractLsb' 8 24 = 0)
  | _ => true

/-- A decoded command is legal here: it exists on the port (R95 b), its fields are within bounds (R95 e), and R95 (f)
holds. -/
def State.legal (s : State) (i : Instr) : Bool := i.ports.contains s.port && i.inBounds s.cfg && s.opbClear i

/-- The order of checks of R263: halted, then illegal, then what the operation itself does. -/
def State.checked (s : State) (i : Instr) (body : Result) : Result :=
  if s.halted then .next s.refuseHalted else if s.legal i then body else .next s.refuseIllegal

/-- A guarded command (R265): while its guard is false it waits, so nothing happens (R263 (3); log 6). -/
def State.guarded (s : State) (guard : Bool) (body : Result) : Result := if guard then body else .next s

end Sys2Proof.Machine
end

