-- ==== Sys2Proof/Machine/Bulk.lean ====
section
/-! DEFINITION. Unit BCH (43_bulk): the write, submit and padding helpers and the five bulk channel commands. Every command
is one atomic micro-step (R190). -/

namespace Sys2Proof.Machine

/-- `BUF_SIZE[c]` of an in-channel. -/
def State.bufIn (s : State) (c : InChan) : Nat := s.cfg.bufIn.sel c

/-- `BUF_SIZE[c]` of an out-channel. -/
def State.bufOut (s : State) (c : OutChan) : Nat := s.cfg.bufOut.sel c

/-- The test of `do_write` (R192): `o + len <= BUF_SIZE[c]`, formed without wrap. -/
def State.fits (s : State) (c : InChan) (len : BitVec 16) : Bool :=
  decide (s.actOff c + len.toNat ≤ s.bufIn c)

/-- `do_write` where the bytes fit (R192): they go to the active bank's tail and the offset moves. -/
def State.append (s : State) (c : InChan) (len : BitVec 16) (bytes : List Byte) : State :=
  (s.writeBank c (s.act.sel c) (s.actOff c) bytes).setOff c (s.act.sel c) (s.actOff c + len.toNat)

/-- The test of the padding rule (R195) for payload length L. -/
def State.padNeeded (s : State) (c : InChan) (len : Nat) : Bool :=
  decide (s.cfg.mpsIn.sel c < s.bufIn c) && decide (len % s.cfg.mpsIn.sel c = 0)

/-- The length handed to the transport: `pad(c, a, L)` (R195). -/
def State.paddedLen (s : State) (c : InChan) (len : Nat) : Nat :=
  if s.padNeeded c len then len + s.cfg.padLen else len

/-- The padding block has a place in the bank: `L + PAD_LEN <= BUF_SIZE[c] + PAD_LEN` (R31). False only in states that no
rule produces (R197; log 15). -/
def State.padFits (s : State) (c : InChan) : Bool :=
  !s.padNeeded c (s.actOff c) || decide (s.actOff c ≤ s.bufIn c)

/-- The zero bytes of the padding rule (R195). -/
def State.padBank (s : State) (c : InChan) : State :=
  if s.padNeeded c (s.actOff c) then
    s.writeBank c (s.act.sel c) (s.actOff c) (List.replicate s.cfg.padLen 0)
  else s

/-- `do_submit(c)` (R194), under its precondition. -/
def State.doSubmit (s : State) (c : InChan) : State :=
  let len := s.paddedLen c (s.actOff c)
  let s' := ((s.padBank c).setOff c (s.act.sel c) len).emit (.xferStart (.inn c) (s.act.sel c) len)
  { s' with act := s'.act.upd c (s.act.sel c).other }

/-- Carry out `do_submit(c)` and go on, unless its padding block has no place. -/
def State.submitThen (s : State) (c : InChan) (k : State → State) : Result :=
  if s.padFits c then .next (k (s.doSubmit c)) else .fault .bankRange

/-- The step of `BC.WR` (R192). -/
def State.bulkWrite (s : State) (c : InChan) (len : BitVec 16) : State :=
  if s.fits c len then
    (s.append c len (s.wBytes len)).respond { ok := true, val := zext 32 (s.actOff c + len.toNat) }
  else s.respond { ok := false, val := zext 32 (s.actOff c) }

/-- `BC.WR c, #len` (R192). -/
def execBcWr (c : InChan) (len : BitVec 16) (s : State) : Result :=
  s.checked (.bcWr c len) (.next (s.bulkWrite c len))

/-- The answer of `BC.RDY` (R193): `{zext_16(idle offset), zext_16(active offset)}`. -/
def State.offsets (s : State) (c : InChan) : Nat := cat (zext 16 (s.idleOff c)) 16 (zext 16 (s.actOff c))

/-- `BC.RDY c` (R193). -/
def execBcRdy (c : InChan) (s : State) : Result :=
  s.checked (.bcRdy c) (.next (s.respond { ok := s.isReady c, val := s.offsets c }))

/-- The step of `BC.SUB` (R196). -/
def State.submit (s : State) (c : InChan) : Result :=
  if s.readyToSubmit c then
    s.submitThen c fun s' => s'.respond { ok := true, val := zext 32 (s.paddedLen c (s.actOff c)) }
  else .next (s.halt causeSubmit)

/-- `BC.SUB c` (R196). -/
def execBcSub (c : InChan) (s : State) : Result := s.checked (.bcSub c) (s.submit c)

/-- The step of `BC.TXC` with a bank in flight (R198). -/
def State.complete (s : State) (c : InChan) : Result :=
  let s' := s.setOff c (s.act.sel c).other 0
  if s.actOff c = 0 then .next (s'.respond { ok := true })
  else s'.submitThen c fun s'' => s''.respond { ok := true, val := zext 32 (s.paddedLen c (s.actOff c)) }

/-- `BC.TXC c` (R198): guarded by `in_flight(c)`. -/
def execBcTxc (c : InChan) (s : State) : Result :=
  s.checked (.bcTxc c) (s.guarded (s.inFlight c) (s.complete c))

/-- The step of `BC.RXC` (R199). -/
def State.receive (s : State) (c : OutChan) (n : BitVec 16) : State :=
  let b := s.ract.sel c
  let s' := (s.writeRbank c b (s.wBytes n)).emit (.rxDeliver c b n)
  ({ s' with ract := s'.ract.upd c b.other }.emit
    (.xferStart (.out c) b.other (s.bufOut c))).respond { ok := true, val := n.toNat }

/-- `BC.RXC c, #n` (R199). -/
def execBcRxc (c : OutChan) (n : BitVec 16) (s : State) : Result := s.checked (.bcRxc c n) (.next (s.receive c n))

end Sys2Proof.Machine
end

