-- ==== Sys2Proof/Machine/Channel.lean ====
section
/-! DEFINITION. Unit CH (44_channel): the soft reset (R281), the configuration commands, the register read, and the transmit
request with back-pressure. Every command is one atomic micro-step. -/

namespace Sys2Proof.Machine

/-- Port P is between commands: the guard of a soft reset (R281). -/
def State.producerIdle (s : State) : Bool := decide (s.pPhase = .idle)

/-- `soft_reset()` (R281). It emits nothing. -/
def State.softReset (s : State) : State :=
  { s with
    get := s.put
    cCur := s.put
    cLim := s.put
    lost := ⟨0, 0, 0⟩
    txDropped := 0
    desync := false
    feat := s.cfg.featPerm
    txAvail := BitVec.ofNat 8 s.cfg.txSlots
    off := ⟨⟨0, 0⟩, ⟨0, 0⟩⟩
    act := ⟨.b0, .b0⟩
    ract := ⟨.b0, .b0⟩ }

/-- The step of `CH.EN` (R221). -/
def State.setEnable (s : State) (enable : Bool) : State :=
  let s' := { s with en := enable }
  ((if enable then s' else s'.softReset).emit (.enable enable)).respond
    { ok := true, val := enable.toNat }

/-- `CH.EN #enable` (R221): with `enable` = 0 guarded by `p_phase` = IDLE. -/
def execChEn (enable : Bool) (s : State) : Result :=
  s.checked (.chEn enable) (s.guarded (enable || s.producerIdle) (.next (s.setEnable enable)))

/-- The step of `CH.BT` (R222). -/
def State.setBitTiming (s : State) (ph : BitPhase) : State :=
  let brp := s.wHalf 0
  let tseg1 := s.wHalf 16
  let tseg2 := s.wHalf 32
  let sjw := s.wHalf 48
  let s' := match ph with
    | .nominal => { s with nmBt := s.bitTime, nmBrp := brp, nmTseg1 := tseg1, nmTseg2 := tseg2, nmSjw := sjw }
    | .data => { s with dtBt := s.bitTime, dtBrp := brp, dtTseg1 := tseg1, dtTseg2 := tseg2, dtSjw := sjw }
  (s'.emit (.setBitTiming ph brp tseg1 tseg2 sjw)).respond { ok := true }

/-- `CH.BT ph` (R222). -/
def execChBt (ph : BitPhase) (s : State) : Result := s.checked (.chBt ph) (.next (s.setBitTiming ph))

/-- The step of `CH.FOR` (R223), with the conflict test of U7 after the test of unsupported bits (log 18). -/
def State.orFeatures (s : State) (mask : BitVec 16) : State :=
  if s.badFeatures mask ≠ 0 then
    s.respond { ok := false, err := errFeature, val := (s.badFeatures mask).toNat }
  else if s.featConflict mask then
    s.respond { ok := false, err := errFeature, val := (Config.conflictBits s.feat mask).toNat }
  else
    ({ s with feat := s.feat ||| mask.toNat }.emit (.setFeatures (s.feat ||| mask.toNat))).respond
      { ok := true, val := zext 32 (s.feat ||| mask.toNat) }

/-- `CH.FOR #mask` (R223). -/
def execChFor (mask : BitVec 16) (s : State) : Result := s.checked (.chFor mask) (.next (s.orFeatures mask))

/-- The step of `CH.FCL` (R224). -/
def State.clearFeatures (s : State) : State :=
  ({ s with feat := s.cfg.featPerm }.emit (.setFeatures s.cfg.featPerm)).respond
    { ok := true, val := zext 32 s.cfg.featPerm }

/-- `CH.FCL` (R224). -/
def execChFcl (s : State) : Result := s.checked .chFcl (.next s.clearFeatures)

/-- `CH.RST` (R225): guarded by `p_phase` = IDLE. -/
def execChRst (s : State) : Result :=
  s.checked .chRst (s.guarded s.producerIdle (.next (s.softReset.respond { ok := true })))

/-- Register 10: `{halt_cause[3:0], 3'b000, halted}` (R45). -/
def State.haltReg (s : State) : Nat := cat (cat s.haltCause.toNat 3 0) 1 s.halted.toNat

/-- The registers of `CH.STAT` by number, zero-extended (R45, R226). Numbers above 14 are illegal before this is read. -/
def State.statusReg (s : State) (regno : BitVec 16) : Nat :=
  match regno.toNat with
  | 0 => s.en.toNat
  | 1 => s.feat
  | 2 => s.nmBt
  | 3 => s.dtBt
  | 4 => s.txAvail.toNat
  | 5 => s.lost.sel .rxq
  | 6 => s.lost.sel .txrq
  | 7 => s.lost.sel .stq
  | 8 => s.txDropped
  | 9 => s.desync.toNat
  | 10 => s.haltReg
  | 11 => cat s.nmTseg1.toNat 16 s.nmBrp.toNat
  | 12 => cat s.nmSjw.toNat 16 s.nmTseg2.toNat
  | 13 => cat s.dtTseg1.toNat 16 s.dtBrp.toNat
  | 14 => cat s.dtSjw.toNat 16 s.dtTseg2.toNat
  | _ => 0

/-- `CH.STAT #regno` (R226). -/
def execChStat (regno : BitVec 16) (s : State) : Result :=
  s.checked (.chStat regno) (.next (s.respond { ok := true, val := zext 32 (s.statusReg regno) }))

/-- The drop path of `CH.TXRQ` (R227), `tx_dropped` already counted. The receipt goes to in-channel 1: where it fits, or
after a submit; else it is lost and `desync` is set. -/
def State.placeReceipt (s : State) (m : BitVec 16) : Result :=
  if s.fits .dataIn m then .next ((s.append .dataIn m (s.receipt m)).respond { ok := false, val := 1 })
  else if s.isReady .dataIn then
    s.submitThen .dataIn fun s' => (s'.append .dataIn m (s.receipt m)).respond { ok := false, val := 2 }
  else .next ({ s with desync := true }.respond { ok := false, val := 3 })

/-- `desync` under reading (ii) of U6: also set whenever channel 1 is not ready at a dropped request. Under reading (i),
the default, unchanged here (log 17). -/
def State.literalDesync (s : State) : Bool := s.desync || (s.cfg.desyncLiteral && !s.isReady .dataIn)

/-- The step of `CH.TXRQ` (R227). -/
def State.transmitRequest (s : State) (m : BitVec 16) : Result :=
  if s.txAvail ≠ 0 then
    .next (({ s with txAvail := s.txAvail - 1 }.emit (.requestTransmit s.wFrame)).respond { ok := true })
  else
    { s with txDropped := satinc s.cfg.cntW s.txDropped, desync := s.literalDesync }.placeReceipt m

/-- `CH.TXRQ #m` (R227). -/
def execChTxrq (m : BitVec 16) (s : State) : Result := s.checked (.chTxrq m) (s.transmitRequest m)

end Sys2Proof.Machine
end

