-- ==== Sys2Proof/Machine/Ring.lean ====
section
/-! DEFINITION. Unit RB (41_ring): the producer's three micro-steps CHK, WR, PUB, shared by `RB.PUSH`, `TS.BST` and `TS.BER`,
and the consumer operations. -/

namespace Sys2Proof.Machine

/-- Step CHK of R124 on ring r. -/
def State.pushChk (s : State) (r : Ring) : State :=
  if s.overfull r (s.put.sel r) then s.halt causeRing
  else if s.full r (s.put.sel r) then
    { s with lost := s.lost.upd r (satinc s.cfg.cntW (s.lost.sel r)) }.respond { ok := false }
  else { s with pRing := r, pPhase := .pushWr }

/-- Step WR of R124: the whole entry into the slot of `put`, on the ring that CHK latched (log 21). -/
def State.pushWr (s : State) (e : Nat) : State :=
  { s.writeSlot s.pRing (s.put.sel s.pRing) e with pPhase := .pushPub }

/-- Step PUB of R124: the put index is published, the consumer woken. -/
def State.pushPub (s : State) : State :=
  ({ s with
    put := s.put.upd s.pRing (addW s.cfg.idxW (s.put.sel s.pRing) 1), pPhase := .idle }.emit (.wake s.pRing)).respond
    { ok := true }

/-- The micro-step of a single push of `e` into ring r that `p_phase` names (R40, R124). A batch phase belongs to another
command (R266 (c); log 7). -/
def State.pushStep (s : State) (r : Ring) (e : Nat) : Result :=
  match s.pPhase with
  | .idle => .next (s.pushChk r)
  | .pushWr => .next (s.pushWr e)
  | .pushPub => .next s.pushPub
  | .pass1 => .refused .commandWhileBusy
  | .pass2 => .refused .commandWhileBusy
  | .batchPub => .refused .commandWhileBusy

/-- `RB.PUSH r` (R124). -/
def execRbPush (r : Ring) (s : State) : Result := s.checked (.rbPush r) (s.pushStep r (s.wEntry r))

/-- The step of `RB.POPB` (R125). -/
def State.popBegin (s : State) (r : Ring) : State :=
  if s.overfull r (s.put.sel r) then s.halt causeRing
  else { s with cLim := s.cLim.upd r (s.put.sel r), cCur := s.cCur.upd r (s.get.sel r) }.respond
    { ok := true, val := zext 32 (s.used r) }

/-- `RB.POPB r` (R125). -/
def execRbPopb (r : Ring) (s : State) : Result := s.checked (.rbPopb r) (.next (s.popBegin r))

/-- The step of `RB.POPN` (R126); a slot that was never written holds no value (U1). -/
def State.popNext (s : State) (r : Ring) : Result :=
  if s.cCur.sel r = s.cLim.sel r then .next (s.respond { ok := false })
  else match s.readSlot r (s.cCur.sel r) with
    | none => .fault .unwrittenSlot
    | some e =>
      .next ({ s with cCur := s.cCur.upd r (addW s.cfg.idxW (s.cCur.sel r) 1) }.respond
        { ok := true, rdata := zext s.cfg.frameW e })

/-- `RB.POPN r` (R126). -/
def execRbPopn (r : Ring) (s : State) : Result := s.checked (.rbPopn r) (s.popNext r)

/-- The step of `RB.POPR` (R127). -/
def State.popRelease (s : State) (r : Ring) : State :=
  { s with get := s.get.upd r (s.cCur.sel r) }.respond
    { ok := true, val := zext 32 (fill s.cfg.idxW (s.cCur.sel r) (s.get.sel r)) }

/-- `RB.POPR r` (R127). -/
def execRbPopr (r : Ring) (s : State) : Result := s.checked (.rbPopr r) (.next (s.popRelease r))

/-- The step of `RB.STAT` (R128): `{lost[r], zext_16(used)}`, in `16 + CNT_W` bits ("a model with another `CNT_W` must widen
the response"). -/
def State.ringStat (s : State) (r : Ring) : State :=
  if s.overfull r (s.put.sel r) then s.halt causeRing
  else s.respond { ok := true, val := cat (s.lost.sel r) 16 (zext 16 (s.used r)) }

/-- `RB.STAT r` (R128). -/
def execRbStat (r : Ring) (s : State) : Result := s.checked (.rbStat r) (.next (s.ringStat r))

end Sys2Proof.Machine
end

