-- ==== Sys2Proof/Machine/Duration.lean ====
section
/-! DEFINITION. The duration model of the timestamp reconstructor (R156 to R162): the configuration functions of U3 and U4,
which are the spec's own definition except where `Params` lists another value (log 16). All arithmetic is exact on natural
numbers until the final narrowing. -/

namespace Sys2Proof.Machine

/-- `dlc_len(fdf, rtr, dlc)`: payload bytes (R156). -/
def dlcLen (fdf rtr : Bool) (dlc : BitVec 4) : Nat :=
  if rtr && !fdf then 0
  else if dlc.toNat ≤ 8 then dlc.toNat
  else if !fdf then 8
  else match dlc.toNat with
    | 9 => 12
    | 10 => 16
    | 11 => 20
    | 12 => 24
    | 13 => 32
    | 14 => 48
    | _ => 64

/-- CRC delimiter, ACK, ACK delimiter, EOF and `IFS_BITS` (R160). -/
def trailerBits (P : Params) : Nat := 1 + 1 + 1 + 7 + P.ifsBits

/-- Head of a classic frame (R157). -/
def classicHead (xtd : Bool) : Nat :=
  if xtd then 1 + 11 + 1 + 1 + 18 + 1 + 2 + 4 else 1 + 11 + 1 + 1 + 1 + 4

/-- `pre` of an FD frame (R158). -/
def fdPre (xtd : Bool) : Nat :=
  if xtd then 1 + 11 + 1 + 1 + 18 + 1 + 1 + 1 + 1 else 1 + 11 + 1 + 1 + 1 + 1 + 1

/-- CRC length of an FD frame (R158). -/
def fdCrc (len : Nat) : Nat := if len ≤ 16 then 17 else 21

/-- `mid` of an FD frame (R158). -/
def fdMid (P : Params) (len : Nat) : Nat := 1 + 4 + 8 * len + P.fdSbcBits + fdCrc len

/-- `frame_bits`: nominal-phase and data-phase bits (R157, R158, R159). -/
def frameBits (P : Params) (xtd rtr fdf brs : Bool) (dlc : BitVec 4) : Nat × Nat :=
  let len := dlcLen fdf rtr dlc
  if !fdf then (classicHead xtd + 8 * len + 15 + trailerBits P, 0)
  else if brs then (fdPre xtd + trailerBits P, fdMid P len)
  else (fdPre xtd + fdMid P len + trailerBits P, 0)

/-- `frame_bits` of a descriptor. -/
def descBits (P : Params) (d : Nat) : Nat × Nat :=
  frameBits P (frameXtd d) (frameRtr d) (frameFdf d) (frameBrs d) (frameDlc d)

/-- The configuration function `txr_overhead(retry)` (R162, U4): `TXR_RETRY_MUL * retry` nominal bits, or what the
parameters list for this retry count. -/
def txrOverhead (P : Params) (retry : BitVec 8) : Nat := (P.txrOverheads.lookup retry).getD (P.txrRetryMul * retry.toNat)

/-- The extra nominal bits of an event: of transmit completions only (R161). -/
def overheadBits (P : Params) (ring : Ring) (retry : BitVec 8) : Nat :=
  match ring with
  | .txrq => txrOverhead P retry
  | .rxq => 0
  | .stq => 0

/-- The spec's own duration (R161): the sum of both phases, then the floor to whole microseconds. -/
def wholeMicroseconds (P : Params) (k : DurationKey) : Nat :=
  let bits := descBits P k.desc
  ((bits.1 + overheadBits P k.ring k.retry) * k.nmBt + bits.2 * k.dtBt) >>> P.frac

/-- `dur_us` modulo `2^32` (R161), the configuration function of U3: the spec's own duration, or what the parameters list
for these arguments. -/
def State.durUs (s : State) (d : Nat) (retry : BitVec 8) (ring : Ring) : Nat :=
  let k : DurationKey := ⟨d, retry, ring, s.nmBt, s.dtBt⟩
  ((s.cfg.durations.lookup k).getD (wholeMicroseconds s.cfg k)) % 2 ^ 32

end Sys2Proof.Machine
end

