-- ==== Sys2Proof/Machine/Timestamp.lean ====
section
/-! DEFINITION. Unit TSR (42_timestamp): the batch micro-steps LATCH, P1, P2, PUB, shared by `TS.RXB` and `TS.TXB`, and the
two status-ring producers. -/

namespace Sys2Proof.Machine

/-- Step LATCH of R152 and R153. -/
def State.latch (s : State) (ring : Ring) (n : BitVec 16) (retry : BitVec 8) : State :=
  let s' := { s with
    pRing := ring, pN := n, pDesc := s.wdata, pRetry := retry, pT := s.time, pI := n,
    pPut := s.put.sel ring, pStored := 0, pDropped := 0 }
  if n = 0 then s'.respond { ok := true } else { s' with pPhase := .pass1 }

/-- Step P1 of R154: the frame before `p_i` gets the running timestamp, then its duration is subtracted. -/
def State.passOne (s : State) : Result :=
  let i := s.pI - 1
  if i.toNat < s.cfg.batchMax then
    .next { s with
      pI := i
      pTmp := s.pTmp.write i.toNat s.pT
      pT := subW s.cfg.tsW s.pT (s.durUs (descriptor s.cfg s.pDesc i.toNat) s.pRetry s.pRing)
      pPhase := if i = 0 then .pass2 else .pass1 }
  else .fault .scratchRange

/-- The end of step P2 of R155: on to the next frame, or to the publish. -/
def State.passTwoNext (s : State) : State :=
  { s with pI := s.pI + 1, pPhase := if s.pI + 1 = s.pN then .batchPub else .pass2 }

/-- Step P2 of R155: frame `p_i` is stored at the local put index, or dropped and counted once. -/
def State.passTwo (s : State) : Result :=
  if s.overfull s.pRing s.pPut then .next (s.halt causeRing)
  else if s.full s.pRing s.pPut then
    .next { s with
      lost := s.lost.upd s.pRing (satinc s.cfg.cntW (s.lost.sel s.pRing)), pDropped := s.pDropped + 1 }.passTwoNext
  else match s.pTmp.read s.pI.toNat with
    | none => .fault .unwrittenScratch
    | some t =>
      .next { s.writeSlot s.pRing s.pPut (withTime s.cfg (descriptor s.cfg s.pDesc s.pI.toNat) t) with
        pPut := addW s.cfg.idxW s.pPut 1, pStored := s.pStored + 1 }.passTwoNext

/-- The publish of step PUB: only when the local put index has moved (R155). -/
def State.publish (s : State) : State :=
  if s.pPut = s.put.sel s.pRing then s
  else { s with put := s.put.upd s.pRing s.pPut }.emit (.wake s.pRing)

/-- The slot counter in step PUB: raised for TXRQ only (R153, R155). -/
def State.returnSlots (s : State) : State :=
  match s.pRing with
  | .txrq => { s with txAvail := s.raisedSlots s.pN }
  | .rxq => s
  | .stq => s

/-- Step PUB of R155. -/
def State.batchPub (s : State) : State :=
  { s.publish.returnSlots with pPhase := .idle }.respond { ok := true, val := cat s.pDropped.toNat 16 s.pStored.toNat }

/-- The micro-step of a batch that `p_phase` names (R40, R152). A push phase belongs to another command (R266 (c);
log 7). -/
def State.batchStep (s : State) (ring : Ring) (n : BitVec 16) (retry : BitVec 8) : Result :=
  match s.pPhase with
  | .idle => .next (s.latch ring n retry)
  | .pass1 => s.passOne
  | .pass2 => s.passTwo
  | .batchPub => .next s.batchPub
  | .pushWr => .refused .commandWhileBusy
  | .pushPub => .refused .commandWhileBusy

/-- `TS.RXB #n` (R152). -/
def execTsRxb (n : BitVec 16) (s : State) : Result := s.checked (.tsRxb n) (s.batchStep .rxq n 0)

/-- `TS.TXB #n` (R153). -/
def execTsTxb (n : BitVec 16) (s : State) : Result := s.checked (.tsTxb n) (s.batchStep .txrq n s.retry)

/-- `TS.BST #code` (R163). -/
def execTsBst (code : BitVec 8) (s : State) : Result :=
  s.checked (.tsBst code) (s.pushStep .stq (statusEntry s.time code false false false))

/-- `TS.BER #code, dir, phase` (R164). -/
def execTsBer (code : BitVec 8) (dir phase : Bool) (s : State) : Result :=
  s.checked (.tsBer code dir phase) (s.pushStep .stq (statusEntry s.time code phase dir true))

end Sys2Proof.Machine
end

