-- ==== Sys2Proof/Machine/Dispatch.lean ====
section
/-! DEFINITION. One arm per command: its next micro-step on port `s.port`. -/

namespace Sys2Proof.Machine

def exec (i : Instr) (s : State) : Host.Outcome State Fault Refusal :=
  match i with
  -- port P
  | .rbPush r => Sys2Proof.Machine.execRbPush r s
  | .tsRxb n => Sys2Proof.Machine.execTsRxb n s
  | .tsTxb n => Sys2Proof.Machine.execTsTxb n s
  | .tsBst code => Sys2Proof.Machine.execTsBst code s
  | .tsBer code dir phase => Sys2Proof.Machine.execTsBer code dir phase s
  -- port T
  | .rbPopb r => Sys2Proof.Machine.execRbPopb r s
  | .rbPopn r => Sys2Proof.Machine.execRbPopn r s
  | .rbPopr r => Sys2Proof.Machine.execRbPopr r s
  | .rbStat r => Sys2Proof.Machine.execRbStat r s
  -- ports T and U
  | .bcWr c len => Sys2Proof.Machine.execBcWr c len s
  | .bcRdy c => Sys2Proof.Machine.execBcRdy c s
  | .bcSub c => Sys2Proof.Machine.execBcSub c s
  -- port U
  | .bcTxc c => Sys2Proof.Machine.execBcTxc c s
  | .bcRxc c n => Sys2Proof.Machine.execBcRxc c n s
  | .chTxrq m => Sys2Proof.Machine.execChTxrq m s
  -- ports T and U
  | .chEn enable => Sys2Proof.Machine.execChEn enable s
  | .chBt ph => Sys2Proof.Machine.execChBt ph s
  | .chFor mask => Sys2Proof.Machine.execChFor mask s
  | .chFcl => Sys2Proof.Machine.execChFcl s
  | .chRst => Sys2Proof.Machine.execChRst s
  | .chStat regno => Sys2Proof.Machine.execChStat regno s

end Sys2Proof.Machine
end

