-- ==== Sys2Proof/Machine/Ports.lean ====
section
/-! DEFINITION. Which port moves next (R262: any order; log 2), and the answer to a word that is no command. -/

namespace Sys2Proof.Machine

/-- The ports with a command. -/
def State.busyPorts (s : State) : List Port := [Port.p, .u, .t].filter fun q => !(s.input.sel q).isEmpty

/-- The port that performs the next micro-step: the one that `turns` names; where it is used up, the only port with a
command, or among several the one a free value picks (U14). With no command anywhere there is none. -/
def State.nextPort (s : State) : Option Port :=
  match s.turns with
  | q :: _ => some q
  | [] =>
    match s.busyPorts with
    | [] => none
    | [q] => some q
    | q :: q' :: qs => some ((q :: q' :: qs).getD (Config.turn s.ticks % (qs.length + 2)) q)

/-- Port `q` takes its turn. -/
def State.select (s : State) (q : Port) : State := { s with port := q, turns := s.turns.tail, ticks := s.ticks + 1 }

/-- The answer to a word that is no command: HALTED takes precedence (R95, R263). -/
def State.refuseWord (s : State) : State := if s.halted then s.refuseHalted else s.refuseIllegal

/-- The port on which an agent presents a word in `State.withFetchWord`: the first on which the command exists. -/
def homePort (w : Word) : Port :=
  match decodeWord w with
  | .ok i => i.ports.headD .t
  | .error _ => .t

/-- The command made of a word alone, its operand buses 0. -/
def bareCommand (w : Word) : Command := { word := w, opa := 0, opb := 0, wdata := 0 }

end Sys2Proof.Machine
end

