-- ==== Sys2Proof/Machine/Step.lean ====
section
/-! DEFINITION. One step: the port whose turn it is performs one micro-step of the command it presents (R12, R99). A block
with no command holds its state (R269, R273). -/

namespace Sys2Proof.Machine

/-- The micro-step of the port that has just taken its turn. -/
def State.perform (s : State) : Host.Outcome State Fault Refusal :=
  match s.presented s.port with
  | none => .next s
  | some cmd =>
    match decodeWord cmd.word with
    | .error _ => .next s.refuseWord
    | .ok i => exec i s

def step (s : State) : Host.Outcome State Fault Refusal :=
  match s.nextPort with
  | none => .next s
  | some q => (s.select q).perform

/-- An agent presents the word, with operand buses 0, on a port where its command exists, and that port moves next. On
port P the producer is between commands, as it is whenever P takes a new one (R40; log 5). -/
def State.withFetchWord (s : State) (nbits w : Nat) : State :=
  let word := BitVec.ofNat 32 (w % 2 ^ nbits)
  let q := homePort word
  { s with
    turns := q :: s.turns
    input := s.input.upd q (bareCommand word :: s.input.sel q)
    pPhase := if q = .p then .idle else s.pPhase }

end Sys2Proof.Machine
end

