-- ==== Sys2Proof/Safety.lean ====
section
/-! DEFINITION. The terms in which statements about SCGW are made: the end of a command, legality read off the operation
table, final states (R273), the invariant (R123, R197, R229, R230), the states from which no step stops, the contents
of a ring (R129), the timestamps of a batch (R154), and a channel's state put beside another's (R190). Nothing here is
used by the machine. -/

namespace Sys2Proof.Machine

/-- `s` after the command on its port has emitted `es` and ended with response `r` (R11, R13). -/
def State.answered (s : State) (es : List Event) (r : Response) : State :=
  { s with
    log := s.log ++ es.map .event ++ [.response s.port r]
    input := s.input.upd s.port (s.input.sel s.port).tail }

/-- A step's outcome is a next state. -/
def continues (o : Result) : Prop := ∃ t, o = .next t

/-- R93, R95 read field by field: the command with these fields exists on port `q` and every operand is in its range. -/
def tableLegal (P : Params) (q : Port) (op : BitVec 8) (sel zero : BitVec 4) (imm : BitVec 16) (opb : Word) : Bool :=
  decide (zero = 0) &&
    if op = 0x10 then decide (q = .p) && decide (sel.toNat ≤ 2) && decide (imm = 0)
    else if op = 0x11 then decide (q = .p) && decide (sel = 0) && decide (imm.toNat ≤ P.batchMax)
    else if op = 0x12 then
      decide (q = .p) && decide (sel = 0) && decide (imm.toNat ≤ P.batchMax) && decide (opb.toNat < 2 ^ 8)
    else if op = 0x13 then decide (q = .p) && decide (sel = 0) && decide (imm.toNat < 2 ^ 8)
    else if op = 0x14 then decide (q = .p) && decide (sel = 0) && decide (imm.toNat < 2 ^ 10)
    else if op = 0x20 ∨ op = 0x21 ∨ op = 0x22 ∨ op = 0x23 then
      decide (q = .t) && decide (sel.toNat ≤ 2) && decide (imm = 0)
    else if op = 0x30 then decide (q ≠ .p) && decide (sel.toNat ≤ 1)
    else if op = 0x31 ∨ op = 0x32 then decide (q ≠ .p) && decide (sel.toNat ≤ 1) && decide (imm = 0)
    else if op = 0x38 then decide (q = .u) && decide (sel.toNat ≤ 1) && decide (imm = 0)
    else if op = 0x39 then
      decide (q = .u) &&
        (decide (sel = 2) && decide (imm.toNat ≤ P.bufOut.cmdOut)
          || decide (sel = 3) && decide (imm.toNat ≤ P.bufOut.dataOut))
    else if op = 0x3A then decide (q = .u) && decide (sel = 0) && decide (imm.toNat ≤ P.bufIn.dataIn)
    else if op = 0x40 then decide (q ≠ .p) && decide (sel = 0) && decide (imm.toNat ≤ 1)
    else if op = 0x41 then decide (q ≠ .p) && decide (sel.toNat ≤ 1) && decide (imm = 0)
    else if op = 0x42 then decide (q ≠ .p) && decide (sel = 0)
    else if op = 0x43 ∨ op = 0x44 then decide (q ≠ .p) && decide (sel = 0) && decide (imm = 0)
    else if op = 0x45 then decide (q ≠ .p) && decide (sel = 0) && decide (imm.toNat ≤ 14)
    else false

/-- `tableLegal` of a command as presented. -/
def commandLegal (P : Params) (q : Port) (c : Command) : Bool :=
  tableLegal P q (c.word.extractLsb' 24 8) (c.word.extractLsb' 20 4) (c.word.extractLsb' 16 4)
    (c.word.extractLsb' 0 16) c.opb

/-- Quiescent (R273): P between commands and no command on any port. -/
def State.quiescent (s : State) : Bool :=
  decide (s.pPhase = .idle) && s.input.p.isEmpty && s.input.u.isEmpty && s.input.t.isEmpty

/-- Drained (R273): quiescent, every ring empty, every in-channel with both offsets 0. -/
def State.drained (s : State) : Bool :=
  s.quiescent && decide (s.put = s.get) && decide (s.off = ⟨⟨0, 0⟩, ⟨0, 0⟩⟩)

/-- A normal final state (R273): quiescent and not halted. -/
def State.normalFinal (s : State) : Bool := s.quiescent && !s.halted

/-- Every storage space is in canonical form and within the size that R60 gives it. -/
structure State.StorageOk (s : State) : Prop where
  slotRx : s.slotRx.Wf ∧ s.slotRx.Within (s.cap .rxq)
  slotTx : s.slotTx.Wf ∧ s.slotTx.Within (s.cap .txrq)
  slotSt : s.slotSt.Wf ∧ s.slotSt.Within (s.cap .stq)
  scratch : s.pTmp.Wf ∧ s.pTmp.Within s.cfg.batchMax
  bank : ∀ c b, ((s.bank.sel c).sel b).Wf ∧ ((s.bank.sel c).sel b).Within (s.bufIn c + s.cfg.padLen)
  rbank : ∀ c b, ((s.rbank.sel c).sel b).Wf ∧ ((s.rbank.sel c).sel b).Within (s.bufOut c)

/-- Port P is between the micro-steps of a single push. -/
def State.inPush (s : State) : Prop := s.pPhase = .pushWr ∨ s.pPhase = .pushPub

/-- Port P is between the micro-steps of a batch. -/
def State.inBatch (s : State) : Prop := s.pPhase = .pass1 ∨ s.pPhase = .pass2 ∨ s.pPhase = .batchPub

/-- Every value whose width is a parameter of R6 has that width. Offsets have theirs by `State.Inv.bankRoom` and R7. -/
structure State.WidthsOk (s : State) : Prop where
  masks : s.cfg.featPerm < 2 ^ s.cfg.featW ∧ s.cfg.featConf < 2 ^ s.cfg.featW
  indices : ∀ r, s.put.sel r < 2 ^ s.cfg.idxW ∧ s.get.sel r < 2 ^ s.cfg.idxW ∧ s.cCur.sel r < 2 ^ s.cfg.idxW
    ∧ s.cLim.sel r < 2 ^ s.cfg.idxW
  localPut : s.pPut < 2 ^ s.cfg.idxW
  counters : (∀ r, s.lost.sel r < 2 ^ s.cfg.cntW) ∧ s.txDropped < 2 ^ s.cfg.cntW
  times : s.pT < 2 ^ s.cfg.tsW ∧ ∀ k v, s.pTmp.read k = some v → v < 2 ^ s.cfg.tsW
  entries : ∀ r k e, s.readSlotAt r k = some e → e < 2 ^ s.entryWidth r
  bitTimes : s.nmBt < 2 ^ s.cfg.btW ∧ s.dtBt < 2 ^ s.cfg.btW
  features : s.feat < 2 ^ s.cfg.featW

/-- The invariant of the block: the parameters meet R7; R123 for every ring, the consumer's working registers and the
producer's; R197 for every in-channel; R229; R230; the pair of R46; the widths of R6; the storage spaces. -/
structure State.Inv (s : State) : Prop where
  params : s.cfg.valid = true
  ringFill : ∀ r, s.used r ≤ s.cap r
  cursor : ∀ r, fill s.cfg.idxW (s.cCur.sel r) (s.get.sel r) ≤ fill s.cfg.idxW (s.cLim.sel r) (s.get.sel r)
    ∧ fill s.cfg.idxW (s.cLim.sel r) (s.get.sel r) ≤ s.used r
  pushRoom : s.inPush → s.used s.pRing < s.cap s.pRing
  batchRoom : s.inBatch → fill s.cfg.idxW s.pPut (s.get.sel s.pRing) ≤ s.cap s.pRing
    ∧ s.used s.pRing ≤ fill s.cfg.idxW s.pPut (s.get.sel s.pRing)
  bankRoom : ∀ c, s.actOff c ≤ s.bufIn c ∧ s.idleOff c ≤ s.bufIn c + s.cfg.padLen
  slotCount : s.txAvail.toNat ≤ s.cfg.txSlots
  features : s.cfg.featPerm &&& s.feat = s.cfg.featPerm ∧ s.feat &&& (s.cfg.featPerm ||| s.cfg.featConf) = s.feat
  haltPair : s.halted = false ∧ s.haltCause = 0 ∨ s.halted = true ∧ (s.haltCause = 1 ∨ s.haltCause = 2)
  widths : s.WidthsOk
  storage : s.StorageOk

/-- A command of a single push. -/
def isPush : Instr → Bool
  | .rbPush _ => true
  | .tsRxb _ => false
  | .tsTxb _ => false
  | .tsBst _ => true
  | .tsBer _ _ _ => true
  | .rbPopb _ => false
  | .rbPopn _ => false
  | .rbPopr _ => false
  | .rbStat _ => false
  | .bcWr _ _ => false
  | .bcRdy _ => false
  | .bcSub _ => false
  | .bcTxc _ => false
  | .bcRxc _ _ => false
  | .chTxrq _ => false
  | .chEn _ => false
  | .chBt _ => false
  | .chFor _ => false
  | .chFcl => false
  | .chRst => false
  | .chStat _ => false

/-- A command of a batch. -/
def isBatch : Instr → Bool
  | .rbPush _ => false
  | .tsRxb _ => true
  | .tsTxb _ => true
  | .tsBst _ => false
  | .tsBer _ _ _ => false
  | .rbPopb _ => false
  | .rbPopn _ => false
  | .rbPopr _ => false
  | .rbStat _ => false
  | .bcWr _ _ => false
  | .bcRdy _ => false
  | .bcSub _ => false
  | .bcTxc _ => false
  | .bcRxc _ _ => false
  | .chTxrq _ => false
  | .chEn _ => false
  | .chBt _ => false
  | .chFor _ => false
  | .chFcl => false
  | .chRst => false
  | .chStat _ => false

/-- Port P still presents a legal command of kind `kind`. -/
def State.presentsP (s : State) (kind : Instr → Bool) : Prop :=
  ∃ cmd i, s.presented .p = some cmd ∧ decodeWord cmd.word = .ok i ∧ kind i = true
    ∧ ({ s with port := .p } : State).legal i = true

/-- The entry `k` places behind the get index of ring r (R61, R73). -/
def State.entryAt (s : State) (r : Ring) (k : Nat) : Option Nat := s.readSlot r (addW s.cfg.idxW (s.get.sel r) k)

/-- What a run from reset adds to the invariant, so that no step stops: every slot the consumer or the batch counts was
written (R73), the scratch words of a batch were written (R41), and the command in progress on P is still there
(D42). -/
structure State.Live (s : State) : Prop where
  written : ∀ r k, k < s.used r → (s.entryAt r k).isSome
  pushWritten : s.pPhase = .pushPub → (s.readSlot s.pRing (s.put.sel s.pRing)).isSome
  batchWritten : s.pPhase = .pass2 ∨ s.pPhase = .batchPub →
    ∀ k, k < fill s.cfg.idxW s.pPut (s.get.sel s.pRing) → (s.entryAt s.pRing k).isSome
  passOne : s.pPhase = .pass1 → 1 ≤ s.pI.toNat ∧ s.pI.toNat ≤ s.pN.toNat ∧ s.pN.toNat ≤ s.cfg.batchMax
    ∧ s.pPut = s.put.sel s.pRing ∧ ∀ j, s.pI.toNat ≤ j → j < s.pN.toNat → (s.pTmp.read j).isSome
  passTwo : s.pPhase = .pass2 → s.pI.toNat < s.pN.toNat ∧ s.pN.toNat ≤ s.cfg.batchMax
    ∧ ∀ j, j < s.pN.toNat → (s.pTmp.read j).isSome
  push : s.halted = false → s.inPush → s.presentsP isPush
  batch : s.halted = false → s.inBatch → s.presentsP isBatch

/-- The entries of ring r from the get index up to the put index, in order (R73, R129). -/
def State.contents (s : State) (r : Ring) : List (Option Nat) :=
  (List.range (s.used r)).map (s.entryAt r)

/-- An entry as ring r stores and returns it: its low `FRAME_W` bits, or the low `STAT_W` bits on STQ (R24, R28). -/
def storedForm (P : Params) (r : Ring) (e : Nat) : Nat :=
  match r with
  | .rxq => e % 2 ^ P.frameW
  | .txrq => e % 2 ^ P.frameW
  | .stq => e % 2 ^ P.statW

/-- Descriptor `d` with timestamp `t` in place of its own: all other bits verbatim (R155). -/
def stamped (P : Params) (d : Nat) (t : Nat) : Nat :=
  d % 2 ^ timeBit + 2 ^ timeBit * t + 2 ^ (timeBit + P.tsW) * (d / 2 ^ (timeBit + P.tsW))

/-- One more, or the same at `2^CNT_W - 1` (R10). -/
def saturated (P : Params) (c : Nat) : Nat := if 2 ^ P.cntW - 1 ≤ c then c else c + 1

/-- `w` is `v` as a field of `n` bits of an answer (R8, R13): `n` bits, and `v` itself where it has no more. Of a wider `v`,
which takes parameters far above the defaults, the spec gives no result, and nothing more is said of `w`. -/
def shownAs (n v w : Nat) : Prop := w < 2 ^ n ∧ (v < 2 ^ n → w = v)

/-- The length handed to the transport for a payload of `len` bytes (R195). -/
def paddedLength (P : Params) (c : InChan) (len : Nat) : Nat :=
  if P.mpsIn.sel c < P.bufIn.sel c ∧ len % P.mpsIn.sel c = 0 then len + P.padLen else len

/-- The three micro-steps CHK, WR, PUB of a single push of entry `e` into ring r by command `i` on port P, each from its
own phase (R124). -/
def pushRule (i : Instr) (r : Ring) (e : Nat) (s : State) : Prop :=
  (s.pPhase = .idle → s.cap r < s.used r →
    exec i s = .next (({ s with halted := true, haltCause := 1 } : State).answered [.halted 1] ⟨false, 2, 1, 0⟩))
  ∧ (s.pPhase = .idle → s.used r = s.cap r →
    exec i s = .next
      (({ s with lost := s.lost.upd r (saturated s.cfg (s.lost.sel r)) } : State).answered [] ⟨false, 0, 0, 0⟩))
  ∧ (s.pPhase = .idle → s.used r < s.cap r → exec i s = .next { s with pRing := r, pPhase := .pushWr })
  ∧ (s.pPhase = .pushWr → s.pRing = r → ∃ t, exec i s = .next t
    ∧ (∀ r' k, t.readSlotAt r' k =
        if r' = r ∧ k = s.slotIndex r (s.put.sel r) then some (storedForm s.cfg r e) else s.readSlotAt r' k)
    ∧ t = { s with slotRx := t.slotRx, slotTx := t.slotTx, slotSt := t.slotSt, pPhase := .pushPub })
  ∧ (s.pPhase = .pushPub → s.pRing = r →
    exec i s = .next
      (({ s with put := s.put.upd r ((s.put.sel r + 1) % 2 ^ s.cfg.idxW), pPhase := .idle } : State).answered
        [.wake r] ⟨true, 0, 0, 0⟩))

/-- `s` after the soft reset, field by field (R281). -/
def State.afterSoftReset (s : State) : State :=
  { s with
    get := s.put, cCur := s.put, cLim := s.put, lost := ⟨0, 0, 0⟩, txDropped := 0, desync := false
    feat := s.cfg.featPerm, txAvail := BitVec.ofNat 8 s.cfg.txSlots
    off := ⟨⟨0, 0⟩, ⟨0, 0⟩⟩, act := ⟨.b0, .b0⟩, ract := ⟨.b0, .b0⟩ }

/-- The registers of `CH.STAT` in the order of their numbers (R45). -/
def State.registers (s : State) : List Nat :=
  [ s.en.toNat, s.feat, s.nmBt, s.dtBt, s.txAvail.toNat, s.lost.rxq, s.lost.txrq, s.lost.stq, s.txDropped,
    s.desync.toNat, (s.haltCause ++ 0#3 ++ BitVec.ofBool s.halted).toNat, (s.nmTseg1 ++ s.nmBrp).toNat,
    (s.nmSjw ++ s.nmTseg2).toNat, (s.dtTseg1 ++ s.dtBrp).toNat, (s.dtSjw ++ s.dtTseg2).toNat ]

/-- R154 in closed form: the timestamp of frame `i` of a batch of `n` is the poll timestamp less the durations of the
frames `i+1 .. n-1`, modulo `2^TS_W`. -/
def batchTime (tsW : Nat) (dur : Nat → Nat) (poll : Nat) (n i : Nat) : Nat :=
  subW tsW poll ((List.range (n - 1 - i)).map fun k => dur (i + 1 + k)).sum

/-- The duration of frame `k` of the batch that command `cmd` presents, at the bit times of `s` (R154, R161). -/
def State.frameDur (s : State) (cmd : Command) (retry : BitVec 8) (ring : Ring) (k : Nat) : Nat :=
  s.durUs (descriptor s.cfg cmd.wdata k) retry ring

/-- Port P, between commands, presents command `cmd`, the batch `i` of `n` frames for `ring`; it alone moves for the
`2n + 2` steps of the batch, and `rest` and `tl` are what then remains of its commands and of the turns. -/
structure State.BatchStart (s : State) (cmd : Command) (i : Instr) (ring : Ring) (n : BitVec 16) (retry : BitVec 8)
    (rest : List Command) (tl : List Port) : Prop where
  inv : s.Inv
  running : s.halted = false
  between : s.pPhase = .idle
  presented : s.input.sel .p = cmd :: rest
  decoded : decodeWord cmd.word = .ok i
  kind : i = .tsRxb n ∧ ring = .rxq ∧ retry = 0
    ∨ i = .tsTxb n ∧ ring = .txrq ∧ retry = cmd.opb.setWidth 8 ∧ cmd.opb.toNat < 2 ^ 8
  nonempty : n ≠ 0
  bounded : n.toNat ≤ s.cfg.batchMax
  turns : s.turns = List.replicate (2 * n.toNat + 2) .p ++ tl

/-- `s` with another state of in-channel c: its banks, offsets and active bank. -/
def State.withIn (s : State) (c : InChan) (bank : PerBank (Memory Byte)) (off : PerBank Nat) (act : Bank) : State :=
  { s with bank := s.bank.upd c bank, off := s.off.upd c off, act := s.act.upd c act }

/-- `s` with another state of out-channel c: its banks and armed bank. -/
def State.withOut (s : State) (c : OutChan) (rbank : PerBank (Memory Byte)) (ract : Bank) : State :=
  { s with rbank := s.rbank.upd c rbank, ract := s.ract.upd c ract }

end Sys2Proof.Machine
end

