-- ==== Sys2Proof/Certificates/Slice0/Obligations.lean ====
section
/-! DEFINITION. The statements about SCGW that the provers settle. Each docstring names the rule of spec/ that the statement
formalises, or says what it rests on. -/

open Sys2Proof Sys2Proof.Machine

/-! ### Encoding and the order of checks -/

/-- 30_encoding sections 1 and 2: no field of an encoding is dropped. -/
def Obligations.DecodeOfEncode : Prop :=
  ∀ i : Instr, decodeWord (encode i) = .ok i

/-- 30_encoding sections 1 and 3: a word that decodes is the encoding of what it decodes to, so no two words mean the same
command and no reserved bit is ignored. -/
def Obligations.EncodeOfDecode : Prop :=
  ∀ (w : Word) (i : Instr), decodeWord w = .ok i → encode i = w

/-- R96: every operation number outside R93 is reserved, whatever the other fields hold, and there are 235 of them. -/
def Obligations.ReservedNumbersRefused : Prop :=
  (∀ w : Word, (∀ i : Instr, i.opcode ≠ wordOp w) → decodeWord w = .error .reservedOp)
    ∧ ((List.range 256).filter fun k => decodeWord (assemble (BitVec.ofNat 8 k) 0 0) == .error .reservedOp).length = 235

/-- 95_test_vectors V-EN1: command words written out from the format of R90. A sanity statement. -/
def Obligations.WrittenWordsDecode : Prop :=
  decodeWord 0x10200000 = .ok (.rbPush .stq) ∧ decodeWord 0x11000003 = .ok (.tsRxb 3)
    ∧ decodeWord 0x14000305 = .ok (.tsBer 5 true true) ∧ decodeWord 0x22200000 = .ok (.rbPopr .stq)
    ∧ decodeWord 0x30100200 = .ok (.bcWr .dataIn 512) ∧ decodeWord 0x39300018 = .ok (.bcRxc .dataOut 24)
    ∧ decodeWord 0x3A000008 = .ok (.chTxrq 8) ∧ decodeWord 0x41100000 = .ok (.chBt .data)
    ∧ decodeWord 0x45000009 = .ok (.chStat 9)

/-- 00_scope R12 and 30_encoding R99: a step is `exec` of the command that the port in turn presents, after the port has
taken its turn (which port that is: log 2); with no port in turn the block holds its state (log 27). -/
def Obligations.StepRunsDecodedCommand : Prop :=
  (∀ (s : State) (q : Port) (cmd : Command) (i : Instr), s.nextPort = some q → s.presented q = some cmd →
    decodeWord cmd.word = .ok i →
    step s = exec i { s with port := q, turns := s.turns.tail, ticks := s.ticks + 1 })
  ∧ (∀ s : State, s.nextPort = none → step s = .next s)

/-- R95: a command that any of the cases (a) to (f) makes illegal is answered ILLEGAL, changes no state, emits no event and
does not halt the block; in a halted block the answer is HALTED; every other command is carried out. -/
def Obligations.IllegalCommandsAnswered : Prop :=
  ∀ (s : State) (q : Port) (cmd : Command), s.nextPort = some q → s.presented q = some cmd →
    (s.halted = true → step s = .next ((s.select q).answered [] ⟨false, 2, s.haltCause.toNat, 0⟩))
    ∧ (s.halted = false → commandLegal s.cfg q cmd = false →
      step s = .next ((s.select q).answered [] ⟨false, 1, 0, 0⟩))
    ∧ (s.halted = false → commandLegal s.cfg q cmd = true → ∃ i, decodeWord cmd.word = .ok i
      ∧ (s.select q).legal i = true ∧ step s = exec i (s.select q))

/-- 30_encoding section 3: a decoded command that is not legal on its port is answered ILLEGAL by its own meaning too,
whichever command it is. -/
def Obligations.IllegalMeaningsChangeNothing : Prop :=
  ∀ (i : Instr) (s : State), s.halted = false → s.legal i = false →
    exec i s = .next (s.answered [] ⟨false, 1, 0, 0⟩)

/-- R256: while the block is halted every word on every port, legal or not, is answered HALTED with the cause, with no
state change and no event. -/
def Obligations.HaltedRefusesEverything : Prop :=
  (∀ (s : State) (q : Port) (cmd : Command), s.nextPort = some q → s.presented q = some cmd → s.halted = true →
    step s = .next ((s.select q).answered [] ⟨false, 2, s.haltCause.toNat, 0⟩))
  ∧ (∀ (i : Instr) (s : State), s.halted = true →
    exec i s = .next (s.answered [] ⟨false, 2, s.haltCause.toNat, 0⟩))

/-- 60_exceptions section 2: nothing leaves the halt. From a halted state every step answers a next state that differs
only in the ports and the outputs. -/
def Obligations.HaltIsPermanent : Prop :=
  ∀ s : State, s.halted = true → ∃ t, step s = .next t
    ∧ t = { s with log := t.log, input := t.input, turns := t.turns, ticks := t.ticks, port := t.port }

/-- 00_scope R13 says that a command ends with exactly one response and how wide it is. That the response stands after the
events of the micro-step is the model's reading of the pseudocode (log 20), and that both stand in one sequence is the
model's record of the outputs (log 4): a micro-step either ends its command with exactly one response, after the events it
emits, or emits nothing and leaves the command on its port. For every choice of parameters and every command the value has
32 bits and the data at most `FRAME_W`; only on `RB.STAT`, where R128 widens the response with `CNT_W`, the value has
`16 + CNT_W` bits where those are more. -/
def Obligations.OneResponsePerCommand : Prop :=
  ∀ (i : Instr) (s t : State), exec i s = .next t →
    t.log = s.log ∧ t.input = s.input
    ∨ ∃ (es : List Event) (r : Response), t.log = s.log ++ es.map .event ++ [.response s.port r]
      ∧ t.input = s.input.upd s.port (s.input.sel s.port).tail
      ∧ r.rdata < 2 ^ s.cfg.frameW
      ∧ ((∀ ring, i ≠ .rbStat ring) → r.val < 2 ^ 32) ∧ (s.Inv → r.val < 2 ^ max 32 (16 + s.cfg.cntW))

/-! ### Unit RB -/

/-- R124, all three micro-steps and all their cases, for every ring. -/
def Obligations.RbPushMicroSteps : Prop :=
  ∀ (s : State) (r : Ring) (cmd : Command), s.halted = false → s.port = .p → s.presented .p = some cmd →
    pushRule (.rbPush r) r cmd.wdata s

/-- R125, its value as the 32 bits of R13. -/
def Obligations.RbPopbBegins : Prop :=
  ∀ (s : State) (r : Ring), s.halted = false → s.port = .t →
    (s.cap r < s.used r → exec (.rbPopb r) s =
      .next (({ s with halted := true, haltCause := 1 } : State).answered [.halted 1] ⟨false, 2, 1, 0⟩))
    ∧ (s.used r ≤ s.cap r → ∃ v, shownAs 32 (s.used r) v ∧ exec (.rbPopb r) s =
      .next (({ s with cLim := s.cLim.upd r (s.put.sel r), cCur := s.cCur.upd r (s.get.sel r) } : State).answered []
        ⟨true, 0, v, 0⟩))

/-- R126, its data as the at most `FRAME_W` bits of R13. -/
def Obligations.RbPopnYields : Prop :=
  ∀ (s : State) (r : Ring), s.halted = false → s.port = .t →
    (s.cCur.sel r = s.cLim.sel r → exec (.rbPopn r) s = .next (s.answered [] ⟨false, 0, 0, 0⟩))
    ∧ (∀ e, s.cCur.sel r ≠ s.cLim.sel r → s.readSlot r (s.cCur.sel r) = some e →
      ∃ d, shownAs s.cfg.frameW e d ∧ exec (.rbPopn r) s =
        .next (({ s with cCur := s.cCur.upd r ((s.cCur.sel r + 1) % 2 ^ s.cfg.idxW) } : State).answered []
          ⟨true, 0, 0, d⟩))

/-- R127, its value as the 32 bits of R13. -/
def Obligations.RbPoprReleases : Prop :=
  ∀ (s : State) (r : Ring), s.halted = false → s.port = .t →
    ∃ v, shownAs 32 (fill s.cfg.idxW (s.cCur.sel r) (s.get.sel r)) v ∧ exec (.rbPopr r) s =
      .next (({ s with get := s.get.upd r (s.cCur.sel r) } : State).answered [] ⟨true, 0, v, 0⟩)

/-- R128: the loss counter above the 16 bits of the fill level, the response widened where `CNT_W` is more than 16. -/
def Obligations.RbStatReports : Prop :=
  ∀ (s : State) (r : Ring), s.halted = false → s.port = .t →
    (s.cap r < s.used r → exec (.rbStat r) s =
      .next (({ s with halted := true, haltCause := 1 } : State).answered [.halted 1] ⟨false, 2, 1, 0⟩))
    ∧ (s.used r ≤ s.cap r → ∃ u, shownAs 16 (s.used r) u
      ∧ exec (.rbStat r) s = .next (s.answered [] ⟨true, 0, s.lost.sel r * 2 ^ 16 + u, 0⟩))

/-- 41_ring section 4 (FIFO order): three steps of a single push append its entry, in stored form, to the ring's contents
and leave the contents of the other rings alone. -/
def Obligations.PushAppendsToContents : Prop :=
  ∀ (s : State) (r : Ring) (cmd : Command) (rest : List Command) (tl : List Port),
    s.Inv → s.halted = false → s.pPhase = .idle → s.input.sel .p = cmd :: rest →
    decodeWord cmd.word = .ok (.rbPush r) → s.turns = [.p, .p, .p] ++ tl → s.used r < s.cap r →
    ∃ t, Sys2Proof.core.run 3 s = .next t
      ∧ t.contents r = s.contents r ++ [some (storedForm s.cfg r cmd.wdata)]
      ∧ (∀ r', r' ≠ r → t.contents r' = s.contents r') ∧ t.pPhase = .idle ∧ t.input = s.input.upd .p rest

/-- 20_memory section 3 (slot ownership, no torn entry): no micro-step of any command on port P changes an entry between the
get and the put index; it can only add entries behind them. -/
def Obligations.ProducerKeepsContents : Prop :=
  ∀ (i : Instr) (s t : State) (r : Ring), s.Inv → s.port = .p → exec i s = .next t →
    ∃ new, t.contents r = s.contents r ++ new

/-- 41_ring sections 3 and 4: the consumer reads a ring's contents in order and releases them from the front. -/
def Obligations.ConsumerReadsInOrder : Prop :=
  ∀ (s : State) (r : Ring), s.Inv → s.halted = false → s.port = .t →
    (∀ e, s.cCur.sel r ≠ s.cLim.sel r →
      (s.contents r)[fill s.cfg.idxW (s.cCur.sel r) (s.get.sel r)]? = some (some e) →
      ∃ t d, shownAs s.cfg.frameW e d ∧ exec (.rbPopn r) s = .next t ∧ t.contents r = s.contents r
        ∧ t.log = s.log ++ [.response .t ⟨true, 0, 0, d⟩] ∧ t.cCur.sel r = (s.cCur.sel r + 1) % 2 ^ s.cfg.idxW)
    ∧ ∃ t, exec (.rbPopr r) s = .next t
      ∧ t.contents r = (s.contents r).drop (fill s.cfg.idxW (s.cCur.sel r) (s.get.sel r))

/-- 20_memory R62 and 41_ring R122, for every index width: under R7 any two of `CAP` consecutive indices address different
slots, also across the wrap, and consecutive indices consecutive slots modulo `CAP`; and the fill level of two indices is
the number of entries between them, however often either has wrapped. -/
def Obligations.ConsecutiveIndicesDistinctSlots : Prop :=
  (∀ (s : State) (r : Ring) (n d : Nat), s.cfg.valid = true → 0 < d → d < s.cap r →
    s.slotIndex r ((n + d) % 2 ^ s.cfg.idxW) ≠ s.slotIndex r (n % 2 ^ s.cfg.idxW))
  ∧ (∀ (s : State) (r : Ring) (n d : Nat), s.cfg.valid = true →
    s.slotIndex r ((n + d) % 2 ^ s.cfg.idxW) = (s.slotIndex r (n % 2 ^ s.cfg.idxW) + d) % s.cap r)
  ∧ (∀ idxW cap n k : Nat, cap < 2 ^ idxW → k ≤ cap → fill idxW ((n + k) % 2 ^ idxW) (n % 2 ^ idxW) = k)

/-! ### Unit TSR -/

/-- 42_timestamp section 2: step LATCH of both batch commands, for the empty batch and for any other up to `BATCH_MAX`. At
the default `TS_W` of 32 the running timestamp is `opa` itself, as the spec writes; that `opa` is narrowed to `TS_W` bits
where the width is another is the model's choice, log 10. -/
def Obligations.BatchLatches : Prop :=
  ∀ (s : State) (n : BitVec 16) (cmd : Command), s.halted = false → s.port = .p → s.presented .p = some cmd →
    s.pPhase = .idle → n.toNat ≤ s.cfg.batchMax →
    (n = 0 → exec (.tsRxb n) s = .next (({ s with
        pRing := .rxq, pN := 0, pDesc := cmd.wdata, pRetry := 0, pT := cmd.opa.toNat % 2 ^ s.cfg.tsW, pI := 0
        pPut := s.put.rxq, pStored := 0, pDropped := 0 } : State).answered [] ⟨true, 0, 0, 0⟩))
    ∧ (n ≠ 0 → exec (.tsRxb n) s = .next { s with
        pRing := .rxq, pN := n, pDesc := cmd.wdata, pRetry := 0, pT := cmd.opa.toNat % 2 ^ s.cfg.tsW, pI := n
        pPut := s.put.rxq, pStored := 0, pDropped := 0, pPhase := .pass1 })
    ∧ (n = 0 → cmd.opb.toNat < 2 ^ 8 → exec (.tsTxb n) s = .next (({ s with
        pRing := .txrq, pN := 0, pDesc := cmd.wdata, pRetry := cmd.opb.setWidth 8
        pT := cmd.opa.toNat % 2 ^ s.cfg.tsW, pI := 0, pPut := s.put.txrq, pStored := 0
        pDropped := 0 } : State).answered [] ⟨true, 0, 0, 0⟩))
    ∧ (n ≠ 0 → cmd.opb.toNat < 2 ^ 8 → exec (.tsTxb n) s = .next { s with
        pRing := .txrq, pN := n, pDesc := cmd.wdata, pRetry := cmd.opb.setWidth 8
        pT := cmd.opa.toNat % 2 ^ s.cfg.tsW, pI := n, pPut := s.put.txrq, pStored := 0, pDropped := 0, pPhase := .pass1 })

/-- R154: one micro-step of pass 1, of either batch command. -/
def Obligations.BatchPassOne : Prop :=
  ∀ (s : State) (i : Instr), s.halted = false → s.legal i = true → isBatch i = true → s.pPhase = .pass1 →
    1 ≤ s.pI.toNat → s.pI.toNat ≤ s.cfg.batchMax →
    ∃ t, exec i s = .next t
      ∧ (∀ k, t.pTmp.read k = if k = s.pI.toNat - 1 then some s.pT else s.pTmp.read k)
      ∧ t = { s with
          pI := s.pI - 1, pTmp := t.pTmp
          pT := subW s.cfg.tsW s.pT (s.durUs
            (s.pDesc / 2 ^ (s.cfg.frameW * (s.pI.toNat - 1)) % 2 ^ s.cfg.frameW) s.pRetry s.pRing)
          pPhase := if s.pI.toNat = 1 then .pass2 else .pass1 }

/-- 42_timestamp section 2 (R155): every case of a micro-step of pass 2, and of the publish. At the default widths the
timestamp replaces bits 599:568 of a 600-bit entry, as R155 writes; that at other widths it is the `TS_W` bits from bit 568
on, and that the entry is cut to `FRAME_W` bits, is the model's choice, log 10. -/
def Obligations.BatchPassTwoAndPublish : Prop :=
  ∀ (s : State) (i : Instr), s.halted = false → s.legal i = true → isBatch i = true →
    (s.pPhase = .pass2 → s.cap s.pRing < fill s.cfg.idxW s.pPut (s.get.sel s.pRing) → exec i s =
      .next (({ s with halted := true, haltCause := 1 } : State).answered [.halted 1] ⟨false, 2, 1, 0⟩))
    ∧ (s.pPhase = .pass2 → fill s.cfg.idxW s.pPut (s.get.sel s.pRing) = s.cap s.pRing → exec i s =
      .next { s with
        lost := s.lost.upd s.pRing (saturated s.cfg (s.lost.sel s.pRing)), pDropped := s.pDropped + 1, pI := s.pI + 1
        pPhase := if s.pI + 1 = s.pN then .batchPub else .pass2 })
    ∧ (∀ v, s.pPhase = .pass2 → fill s.cfg.idxW s.pPut (s.get.sel s.pRing) < s.cap s.pRing →
      s.pTmp.read s.pI.toNat = some v → ∃ t, exec i s = .next t
        ∧ (∀ r k, t.readSlotAt r k = if r = s.pRing ∧ k = s.slotIndex s.pRing s.pPut then
            some (storedForm s.cfg s.pRing (stamped s.cfg (s.pDesc / 2 ^ (s.cfg.frameW * s.pI.toNat) % 2 ^ s.cfg.frameW) v))
            else s.readSlotAt r k)
        ∧ t = { s with
            slotRx := t.slotRx, slotTx := t.slotTx, slotSt := t.slotSt, pPut := (s.pPut + 1) % 2 ^ s.cfg.idxW
            pStored := s.pStored + 1, pI := s.pI + 1
            pPhase := if s.pI + 1 = s.pN then .batchPub else .pass2 })
    ∧ (s.pPhase = .batchPub → exec i s = .next (({ s with
        put := s.put.upd s.pRing s.pPut, pPhase := .idle
        txAvail := if s.pRing = .txrq then BitVec.ofNat 8 (min s.cfg.txSlots (s.txAvail.toNat + s.pN.toNat))
          else s.txAvail } : State).answered
        (if s.pPut = s.put.sel s.pRing then [] else [.wake s.pRing])
        ⟨true, 0, s.pDropped.toNat * 2 ^ 16 + s.pStored.toNat, 0⟩))

/-- 42_timestamp section 4 (R163): a bus-status entry with the given timestamp, pushed into STQ by the three micro-steps of
`RB.PUSH`. At the default widths the timestamp is `opa` itself and the entry has its 48 bits, as R163 writes; that at other
widths `opa` is narrowed to `TS_W` bits, and the entry cut to `STAT_W` bits, is the model's choice, log 10. -/
def Obligations.TsBstPushesStatus : Prop :=
  ∀ (s : State) (code : BitVec 8) (cmd : Command), s.halted = false → s.port = .p → s.presented .p = some cmd →
    pushRule (.tsBst code) .stq (cmd.opa.toNat % 2 ^ s.cfg.tsW * 2 ^ 16 + code.toNat * 2 ^ 8) s

/-- 42_timestamp section 4 (R164): a bus-error entry with the given timestamp, direction and phase, pushed into STQ
likewise. The default widths give what R164 writes; the narrowing of `opa` to `TS_W` bits, and of the entry to `STAT_W`
bits, at other widths is the model's choice, log 10. -/
def Obligations.TsBerPushesError : Prop :=
  ∀ (s : State) (code : BitVec 8) (dir phase : Bool) (cmd : Command),
    s.halted = false → s.port = .p → s.presented .p = some cmd →
    pushRule (.tsBer code dir phase) .stq
      (cmd.opa.toNat % 2 ^ s.cfg.tsW * 2 ^ 16 + code.toNat * 2 ^ 8 + phase.toNat * 4 + dir.toNat * 2 + 1) s

/-- R156: the payload length for every flag and every code. -/
def Obligations.PayloadLengthTable : Prop :=
  (∀ dlc, dlcLen false true dlc = 0)
    ∧ (∀ dlc : BitVec 4, dlcLen false false dlc = min dlc.toNat 8)
    ∧ (∀ (rtr : Bool) (dlc : BitVec 4), [0, 1, 2, 3, 4, 5, 6, 7, 8, 12, 16, 20, 24, 32, 48, 64][dlc.toNat]?
      = some (dlcLen true rtr dlc))

/-- R157, R158, R159, R160 with the head, CRC and trailer lengths summed. -/
def Obligations.FrameBitCounts : Prop :=
  ∀ (P : Params) (xtd rtr brs : Bool) (dlc : BitVec 4),
    frameBits P xtd rtr false brs dlc =
      ((if xtd then 39 else 19) + 8 * dlcLen false rtr dlc + 15 + (10 + P.ifsBits), 0)
    ∧ (∀ mid, mid = 5 + 8 * dlcLen true rtr dlc + P.fdSbcBits + (if dlcLen true rtr dlc ≤ 16 then 17 else 21) →
      frameBits P xtd rtr true true dlc = ((if xtd then 36 else 17) + (10 + P.ifsBits), mid)
      ∧ frameBits P xtd rtr true false dlc = ((if xtd then 36 else 17) + mid + (10 + P.ifsBits), 0))

/-- R168 (the source's frame): 110 bits with the default inter-frame estimate, 111 with 3. -/
def Obligations.ClassicFrameIs110Bits : Prop :=
  ∀ (P : Params) (brs : Bool),
    (P.ifsBits = 2 → frameBits P false false false brs 8 = (110, 0))
    ∧ (P.ifsBits = 3 → frameBits P false false false brs 8 = (111, 0))

/-- R161: the exact sum over both phases, the retry overhead on TXRQ only, one truncation, modulo `2^32`. This is the spec's
own definition; that the parameters can put another value in its place for arguments they list is log 16. -/
def Obligations.DurationInMicroseconds : Prop :=
  ∀ (s : State) (d : Nat) (retry : BitVec 8) (ring : Ring) (nm dt : Nat),
    s.cfg.durations.lookup ⟨d, retry, ring, s.nmBt, s.dtBt⟩ = none → s.cfg.txrOverheads.lookup retry = none →
    frameBits s.cfg (d.testBit 0) (d.testBit 1) (d.testBit 2) (d.testBit 3) (BitVec.ofNat 4 (d / 2 ^ 8)) = (nm, dt) →
    s.durUs d retry ring =
      ((nm + if ring = .txrq then s.cfg.txrRetryMul * retry.toNat else 0) * s.nmBt + dt * s.dtBt)
        / 2 ^ s.cfg.frac % 2 ^ 32

/-- 42_timestamp section 5 (the premise of the strict order): with the default duration model a nominal bit time of at least
2260 makes every duration at least 1 us. -/
def Obligations.DurationsPositive : Prop :=
  ∀ (s : State) (d : Nat) (retry : BitVec 8) (ring : Ring),
    s.cfg.ifsBits = 2 → s.cfg.fdSbcBits = 0 → s.cfg.txrRetryMul = 2 → s.cfg.frac = 16 → s.cfg.durations = [] →
    s.cfg.txrOverheads = [] → 2260 ≤ s.nmBt → s.nmBt < 2 ^ 32 → s.dtBt < 2 ^ 32 → 1 ≤ s.durUs d retry ring

/-- 42_timestamp section 5, of the entries that a whole batch leaves in the ring, where an entry has room for its timestamp
field, as at the defaults: the newest frame of the batch carries the poll timestamp, each stored frame carries the next
one's time less the next one's duration, and, where the durations of the newer frames do not sum to more than the poll
timestamp, without wrap: the times do not decrease from older to newer, none is above the poll timestamp, and they increase
exactly where the newer frame's duration is positive. At the default widths the time is bits 599:568 of an entry and the
poll timestamp is `opa`, as the spec writes; that at other widths the time is the `TS_W` bits from bit 568 on and the poll
timestamp `opa` narrowed to `TS_W` bits is the model's choice, log 10. -/
def Obligations.BatchTimesMonotone : Prop :=
  ∀ (s t : State) (cmd : Command) (i : Instr) (ring : Ring) (n : BitVec 16) (retry : BitVec 8) (rest : List Command)
    (tl : List Port) (new : List (Option Nat)) (poll : Nat),
    s.BatchStart cmd i ring n retry rest tl → timeBit + s.cfg.tsW ≤ s.cfg.frameW →
    Sys2Proof.core.run (2 * n.toNat + 2) s = .next t → new = (t.contents ring).drop (s.used ring) →
    poll = cmd.opa.toNat % 2 ^ s.cfg.tsW →
    ∀ (j e : Nat), new[j]? = some (some e) →
      (j + 1 = n.toNat → frameTime s.cfg e = poll)
      ∧ (∀ e', new[j + 1]? = some (some e') →
        frameTime s.cfg e' = addW s.cfg.tsW (frameTime s.cfg e) (s.frameDur cmd retry ring (j + 1)))
      ∧ (((List.range (n.toNat - 1)).map fun k => s.frameDur cmd retry ring (k + 1)).sum ≤ poll →
        frameTime s.cfg e ≤ poll
        ∧ ∀ e', new[j + 1]? = some (some e') →
          frameTime s.cfg e ≤ frameTime s.cfg e'
          ∧ (frameTime s.cfg e < frameTime s.cfg e' ↔ 1 ≤ s.frameDur cmd retry ring (j + 1)))

/-- 42_timestamp section 2, the whole batch: when only P moves, a batch of n frames takes `2n + 2` steps, stores the oldest
`min(n, CAP - used)` frames with the timestamps of the reverse walk, counts the others once each, publishes once, and
answers once. No slot but those of the stored entries changes, and nothing else but P's working registers. At the default
widths a stored entry is the descriptor with its time in bits 599:568, as the spec writes; that at other widths the time is
computed from `opa` modulo `2^TS_W` and placed in the `TS_W` bits from bit 568 on, and that the entry is cut to `FRAME_W`
bits (so that a small `FRAME_W` cuts the time off), is the model's choice, log 10. -/
def Obligations.BatchRunsToPublish : Prop :=
  ∀ (s : State) (cmd : Command) (i : Instr) (ring : Ring) (n : BitVec 16) (retry : BitVec 8) (rest : List Command)
    (tl : List Port) (stored : Nat),
    s.BatchStart cmd i ring n retry rest tl → stored = min n.toNat (s.cap ring - s.used ring) →
    ∃ t, Sys2Proof.core.run (2 * n.toNat + 2) s = .next t
      ∧ t.contents ring = s.contents ring ++ ((List.range stored).map fun j =>
          some (storedForm s.cfg ring (stamped s.cfg (descriptor s.cfg cmd.wdata j)
            (batchTime s.cfg.tsW (s.frameDur cmd retry ring) cmd.opa.toNat n.toNat j))))
      ∧ (∀ r, r ≠ ring → t.contents r = s.contents r)
      ∧ (∀ r k, (∀ j, j < stored → ¬(r = ring ∧ k = s.slotIndex ring (addW s.cfg.idxW (s.put.sel ring) j))) →
          t.readSlotAt r k = s.readSlotAt r k)
      ∧ t = { s with
          slotRx := t.slotRx, slotTx := t.slotTx, slotSt := t.slotSt
          put := s.put.upd ring ((s.put.sel ring + stored) % 2 ^ s.cfg.idxW)
          lost := s.lost.upd ring (min (2 ^ s.cfg.cntW - 1) (s.lost.sel ring + (n.toNat - stored)))
          txAvail := if ring = .txrq then BitVec.ofNat 8 (min s.cfg.txSlots (s.txAvail.toNat + n.toNat)) else s.txAvail
          log := s.log ++ (if stored = 0 then [] else [.event (.wake ring)])
            ++ [.response .p ⟨true, 0, (n.toNat - stored) * 2 ^ 16 + stored, 0⟩]
          input := s.input.upd .p rest, turns := tl, ticks := s.ticks + (2 * n.toNat + 2), port := .p
          pRing := t.pRing, pN := t.pN, pI := t.pI, pT := t.pT, pPut := t.pPut, pStored := t.pStored
          pDropped := t.pDropped, pRetry := t.pRetry, pDesc := t.pDesc, pTmp := t.pTmp }

/-! ### Unit BCH -/

/-- R192, its value as the 32 bits it writes. -/
def Obligations.BcWrAppends : Prop :=
  ∀ (s : State) (c : InChan) (len : BitVec 16) (cmd : Command), s.halted = false → s.port = .t ∨ s.port = .u →
    s.presented s.port = some cmd →
    (s.actOff c + len.toNat ≤ s.bufIn c → ∃ t v, exec (.bcWr c len) s = .next t ∧ shownAs 32 (s.actOff c + len.toNat) v
      ∧ (∀ c' b k, t.readBank c' b k =
          if c' = c ∧ b = s.act.sel c ∧ s.actOff c ≤ k ∧ k < s.actOff c + len.toNat
          then some (BitVec.ofNat 8 (cmd.wdata / 2 ^ (8 * (k - s.actOff c)))) else s.readBank c' b k)
      ∧ t = ({ s with
          bank := t.bank
          off := s.off.upd c ((s.off.sel c).upd (s.act.sel c) (s.actOff c + len.toNat)) } : State).answered []
          ⟨true, 0, v, 0⟩)
    ∧ (s.bufIn c < s.actOff c + len.toNat → ∃ v, shownAs 32 (s.actOff c) v
      ∧ exec (.bcWr c len) s = .next (s.answered [] ⟨false, 0, v, 0⟩))

/-- R193: the answer, for either bank active, with 16 bits for each offset; and a channel once ready stays ready until a
submit on it, which only `BC.SUB` and, on channel 1, `CH.TXRQ` can perform there. -/
def Obligations.BcRdyReports : Prop :=
  (∀ (s : State) (c : InChan), s.halted = false → s.port = .t ∨ s.port = .u →
    ∃ hi lo, shownAs 16 (s.idleOff c) hi ∧ shownAs 16 (s.actOff c) lo ∧ exec (.bcRdy c) s =
      .next (s.answered [] ⟨decide (s.idleOff c = 0), 0, hi * 2 ^ 16 + lo, 0⟩))
  ∧ (∀ (i : Instr) (s t : State) (c : InChan), s.isReady c = true → exec i s = .next t → t.isReady c = false →
    i = .bcSub c ∨ c = .dataIn ∧ ∃ m, i = .chTxrq m)

/-- R196 with the submit action R194 and the padding rule R195. `L <= BUF_SIZE[c]` is the invariant R197. -/
def Obligations.BcSubSubmits : Prop :=
  ∀ (s : State) (c : InChan), s.halted = false → s.port = .t ∨ s.port = .u →
    (s.actOff c = 0 ∨ s.idleOff c ≠ 0 → exec (.bcSub c) s =
      .next (({ s with halted := true, haltCause := 2 } : State).answered [.halted 2] ⟨false, 2, 2, 0⟩))
    ∧ (∀ len, s.actOff c ≠ 0 → s.idleOff c = 0 → s.actOff c ≤ s.bufIn c →
      len = paddedLength s.cfg c (s.actOff c) →
      ∃ t v, exec (.bcSub c) s = .next t ∧ shownAs 32 len v
        ∧ (∀ c' b k, t.readBank c' b k =
            if c' = c ∧ b = s.act.sel c ∧ s.actOff c ≤ k ∧ k < len then some 0 else s.readBank c' b k)
        ∧ t = ({ s with
            bank := t.bank
            off := s.off.upd c ((s.off.sel c).upd (s.act.sel c) len)
            act := s.act.upd c (s.act.sel c).other } : State).answered
            [.xferStart (.inn c) (s.act.sel c) len] ⟨true, 0, v, 0⟩)

/-- R198: completion without and with the automatic resubmit. `L <= BUF_SIZE[c]` is the invariant R197. With nothing in
flight the guard is false and the command waits: that choice is the model's, log 6, and the clause for it is in
`GuardedCommandsWait`. -/
def Obligations.BcTxcCompletes : Prop :=
  ∀ (s : State) (c : InChan), s.halted = false → s.port = .u → s.idleOff c ≠ 0 →
    (s.actOff c = 0 → exec (.bcTxc c) s =
      .next (({ s with off := s.off.upd c ((s.off.sel c).upd (s.act.sel c).other 0) } : State).answered []
        ⟨true, 0, 0, 0⟩))
    ∧ (∀ len, s.actOff c ≠ 0 → s.actOff c ≤ s.bufIn c →
      len = paddedLength s.cfg c (s.actOff c) →
      ∃ t v, exec (.bcTxc c) s = .next t ∧ shownAs 32 len v
        ∧ (∀ c' b k, t.readBank c' b k =
            if c' = c ∧ b = s.act.sel c ∧ s.actOff c ≤ k ∧ k < len then some 0 else s.readBank c' b k)
        ∧ t = ({ s with
            bank := t.bank
            off := s.off.upd c (((s.off.sel c).upd (s.act.sel c).other 0).upd (s.act.sel c) len)
            act := s.act.upd c (s.act.sel c).other } : State).answered
            [.xferStart (.inn c) (s.act.sel c) len] ⟨true, 0, v, 0⟩)

/-- R199, for every length: up to `BUF_SIZE` it is received, above it the command is illegal. -/
def Obligations.BcRxcReceives : Prop :=
  ∀ (s : State) (c : OutChan) (n : BitVec 16) (cmd : Command), s.halted = false → s.port = .u →
    s.presented .u = some cmd →
    (n.toNat ≤ s.bufOut c → ∃ t, exec (.bcRxc c n) s = .next t
      ∧ (∀ c' b k, t.readRbank c' b k =
          if c' = c ∧ b = s.ract.sel c ∧ k < n.toNat then some (BitVec.ofNat 8 (cmd.wdata / 2 ^ (8 * k)))
          else s.readRbank c' b k)
      ∧ t = ({ s with rbank := t.rbank, ract := s.ract.upd c (s.ract.sel c).other } : State).answered
          [.rxDeliver c (s.ract.sel c) n, .xferStart (.out c) (s.ract.sel c).other (s.bufOut c)]
          ⟨true, 0, n.toNat, 0⟩)
    ∧ (s.bufOut c < n.toNat → exec (.bcRxc c n) s = .next (s.answered [] ⟨false, 1, 0, 0⟩))

/-- 43_bulk section 1: no command of the bulk unit reads or writes another channel. It leaves every other channel as it is, and
with any other state of another channel put in place it does exactly the same. -/
def Obligations.ChannelsIndependent : Prop :=
  (∀ (i : Instr) (c c' : InChan) (len : BitVec 16) (s t : State), c' ≠ c →
    i = .bcWr c len ∨ i = .bcRdy c ∨ i = .bcSub c ∨ i = .bcTxc c → exec i s = .next t →
    (t.off.sel c' = s.off.sel c' ∧ t.act.sel c' = s.act.sel c' ∧ t.bank.sel c' = s.bank.sel c'
      ∧ t.rbank = s.rbank ∧ t.ract = s.ract)
    ∧ (∀ bank off act, exec i (s.withIn c' bank off act) = .next (t.withIn c' bank off act))
    ∧ (∀ o rbank ract, exec i (s.withOut o rbank ract) = .next (t.withOut o rbank ract)))
  ∧ (∀ (c c' : OutChan) (n : BitVec 16) (s t : State), c' ≠ c → exec (.bcRxc c n) s = .next t →
    (t.rbank.sel c' = s.rbank.sel c' ∧ t.ract.sel c' = s.ract.sel c' ∧ t.off = s.off ∧ t.act = s.act ∧ t.bank = s.bank)
    ∧ (∀ rbank ract, exec (.bcRxc c n) (s.withOut c' rbank ract) = .next (t.withOut c' rbank ract))
    ∧ (∀ o bank off act, exec (.bcRxc c n) (s.withIn o bank off act) = .next (t.withIn o bank off act)))

/-- 10_state section 3 (transient ownership): no command writes a byte of a bank in flight, and only a completion or a soft
reset changes its offset. -/
def Obligations.BankInFlightUntouched : Prop :=
  ∀ (i : Instr) (s t : State) (c : InChan), s.inFlight c = true → exec i s = .next t →
    (∀ k, t.readBank c (s.act.sel c).other k = s.readBank c (s.act.sel c).other k)
    ∧ (i ≠ .bcTxc c → i ≠ .chRst → i ≠ .chEn false → t.offOf c (s.act.sel c).other = s.idleOff c)

/-- 43_bulk sections 2 and 4, for all three submitters of the submit action: `BC.SUB`, the automatic resubmit of `BC.TXC` and
the submit inside `CH.TXRQ`. What each hands to the transport is the bytes the active bank held, in order, then the zero
bytes of the padding rule, and the event names that bank and that length. `L <= BUF_SIZE[c]` is the invariant R197. -/
def Obligations.SubmitHandsOverBankBytes : Prop :=
  ∀ (s : State) (c : InChan) (i : Instr) (len : Nat), s.halted = false → s.actOff c ≠ 0 → s.actOff c ≤ s.bufIn c →
    (i = .bcSub c ∧ (s.port = .t ∨ s.port = .u) ∧ s.idleOff c = 0
      ∨ i = .bcTxc c ∧ s.port = .u ∧ s.idleOff c ≠ 0
      ∨ ∃ m, i = .chTxrq m ∧ c = .dataIn ∧ s.port = .u ∧ m.toNat ≤ s.bufIn c ∧ s.txAvail = 0
        ∧ s.bufIn c < s.actOff c + m.toNat ∧ s.idleOff c = 0) →
    len = paddedLength s.cfg c (s.actOff c) →
    ∃ t, exec i s = .next t
      ∧ t.transferBytes c (s.act.sel c) len =
        s.transferBytes c (s.act.sel c) (s.actOff c) ++ List.replicate (len - s.actOff c) (some 0)
      ∧ (∃ r, t.log = s.log ++ [.event (.xferStart (.inn c) (s.act.sel c) len), .response s.port r])
      ∧ t.act.sel c = (s.act.sel c).other ∧ t.offOf c (s.act.sel c) = len

/-- R200, first half: write, submit and completion from an empty channel leave it ready and empty, with no resubmit. -/
def Obligations.WriteSubmitComplete : Prop :=
  ∀ (s : State) (c : InChan) (k : BitVec 16) (w b x : Command) (tl : List Port),
    s.halted = false → s.off.sel c = ⟨0, 0⟩ → s.act.sel c = .b0 →
    0 < k.toNat → k.toNat ≤ s.bufIn c → s.input.t = [w, b] → s.input.u = [x] →
    decodeWord w.word = .ok (.bcWr c k) → decodeWord b.word = .ok (.bcSub c) → decodeWord x.word = .ok (.bcTxc c) →
    s.turns = [.t, .t, .u] ++ tl →
    ∃ t v, shownAs 32 (paddedLength s.cfg c k.toNat) v ∧ Sys2Proof.core.run 3 s = .next t
      ∧ t.off.sel c = ⟨0, 0⟩ ∧ t.isReady c = true ∧ t.act.sel c = .b1
      ∧ t.log = s.log ++ [.response .t ⟨true, 0, k.toNat, 0⟩,
          .event (.xferStart (.inn c) .b0 (paddedLength s.cfg c k.toNat)),
          .response .t ⟨true, 0, v, 0⟩,
          .response .u ⟨true, 0, 0, 0⟩]

/-! ### Unit CH -/

/-- R221: enabling stores the bit only; disabling also performs the soft reset, while P is between commands. While P is not,
the guard is false; that the command then waits as an unchanged next state is the model's choice, log 6. -/
def Obligations.ChEnStoresOrResets : Prop :=
  ∀ s : State, s.halted = false → s.port = .t ∨ s.port = .u →
    exec (.chEn true) s = .next (({ s with en := true } : State).answered [.enable true] ⟨true, 0, 1, 0⟩)
    ∧ (s.pPhase = .idle → exec (.chEn false) s =
      .next (({ s with en := false } : State).afterSoftReset.answered [.enable false] ⟨true, 0, 0, 0⟩))
    ∧ (s.pPhase ≠ .idle → exec (.chEn false) s = .next s)

/-- R225 with the soft reset R281: every ring empty, counters zero, features permanent-only, banks empty; `put`, slots, bank
bytes, `en`, bit times and the producer's registers as they were (R282). That it waits as an unchanged next state while P
is not between commands is the model's choice, log 6. -/
def Obligations.ChRstResets : Prop :=
  ∀ s : State, s.halted = false → s.port = .t ∨ s.port = .u →
    (s.pPhase = .idle → exec .chRst s = .next (s.afterSoftReset.answered [] ⟨true, 0, 0, 0⟩)
      ∧ (∀ r, s.afterSoftReset.used r = 0) ∧ (∀ c, s.afterSoftReset.isReady c = true))
    ∧ (s.pPhase ≠ .idle → exec .chRst s = .next s)

/-- 44_channel section 2 (R222), `CH.BT`: the five registers of the phase named, and no other. At the default `BT_W` of 32
the bit time is `opa` itself, as R222 writes; that `opa` is narrowed to `BT_W` bits where the width is another is the
model's choice, log 10. -/
def Obligations.ChBtStoresTiming : Prop :=
  ∀ (s : State) (cmd : Command), s.halted = false → s.port = .t ∨ s.port = .u → s.presented s.port = some cmd →
    ∀ brp tseg1 tseg2 sjw : BitVec 16, brp = BitVec.ofNat 16 cmd.wdata → tseg1 = BitVec.ofNat 16 (cmd.wdata / 2 ^ 16) →
      tseg2 = BitVec.ofNat 16 (cmd.wdata / 2 ^ 32) → sjw = BitVec.ofNat 16 (cmd.wdata / 2 ^ 48) →
      exec (.chBt .nominal) s = .next (({ s with
        nmBt := cmd.opa.toNat % 2 ^ s.cfg.btW, nmBrp := brp, nmTseg1 := tseg1, nmTseg2 := tseg2
        nmSjw := sjw } : State).answered [.setBitTiming .nominal brp tseg1 tseg2 sjw] ⟨true, 0, 0, 0⟩)
      ∧ exec (.chBt .data) s = .next (({ s with
        dtBt := cmd.opa.toNat % 2 ^ s.cfg.btW, dtBrp := brp, dtTseg1 := tseg1, dtTseg2 := tseg2
        dtSjw := sjw } : State).answered [.setBitTiming .data brp tseg1 tseg2 sjw] ⟨true, 0, 0, 0⟩)

/-- R223, for a request that the predicate of U7 does not call conflicting; by default it calls none so. The other requests
are in `ConflictingFeaturesRefused`. -/
def Obligations.ChForOrsFeatures : Prop :=
  ∀ (s : State) (mask bad : BitVec 16), s.halted = false → s.port = .t ∨ s.port = .u →
    bad = mask &&& ~~~(BitVec.ofNat 16 (s.cfg.featPerm ||| s.cfg.featConf)) →
    (bad ≠ 0 → exec (.chFor mask) s = .next (s.answered [] ⟨false, 3, bad.toNat, 0⟩))
    ∧ (bad = 0 → (s.feat, mask) ∉ s.cfg.featConflicts → ∃ v, shownAs 32 (s.feat ||| mask.toNat) v
      ∧ exec (.chFor mask) s =
      .next (({ s with feat := s.feat ||| mask.toNat } : State).answered [.setFeatures (s.feat ||| mask.toNat)]
        ⟨true, 0, v, 0⟩))

/-- 93_implementation_defined U7, log 18: a request that only conflicts is refused like an unsupported bit; the value
reported is a free value. -/
def Obligations.ConflictingFeaturesRefused : Prop :=
  ∀ (s : State) (mask : BitVec 16), s.halted = false → s.port = .t ∨ s.port = .u →
    mask &&& ~~~(BitVec.ofNat 16 (s.cfg.featPerm ||| s.cfg.featConf)) = 0 → (s.feat, mask) ∈ s.cfg.featConflicts →
    ∃ v, exec (.chFor mask) s = .next (s.answered [] ⟨false, 3, v, 0⟩)

/-- R224. -/
def Obligations.ChFclClearsFeatures : Prop :=
  ∀ s : State, s.halted = false → s.port = .t ∨ s.port = .u →
    ∃ v, shownAs 32 s.cfg.featPerm v ∧ exec .chFcl s =
      .next (({ s with feat := s.cfg.featPerm } : State).answered [.setFeatures s.cfg.featPerm] ⟨true, 0, v, 0⟩)

/-- R226 with the register numbers of R45: numbers 0 to 14 read their register and change nothing; the others are illegal. -/
def Obligations.ChStatReadsRegister : Prop :=
  ∀ (s : State) (regno : BitVec 16), s.halted = false → s.port = .t ∨ s.port = .u →
    (∀ x, s.registers[regno.toNat]? = some x →
      ∃ v, shownAs 32 x v ∧ exec (.chStat regno) s = .next (s.answered [] ⟨true, 0, v, 0⟩))
    ∧ (15 ≤ regno.toNat → exec (.chStat regno) s = .next (s.answered [] ⟨false, 1, 0, 0⟩))

/-- 44_channel section 3 (R227) under reading (i) of U6: all four outcomes of a transmit request. `L <= BUF_SIZE[1]` is the
invariant R197. At the default `FRAME_W` the frame is `wdata[599:0]` and the receipt starts at bit 600, as R227 writes; that
at other widths the frame has `FRAME_W` bits and the receipt starts at bit `FRAME_W` is the model's choice, log 10. -/
def Obligations.ChTxrqOutcomes : Prop :=
  ∀ (s : State) (m : BitVec 16) (cmd : Command) (a : Bank) (o i : Nat),
    s.cfg.desyncLiteral = false → s.halted = false → s.port = .u →
    s.presented .u = some cmd → m.toNat ≤ s.cfg.bufIn.dataIn →
    a = s.act.dataIn → o = s.offOf .dataIn a → i = s.offOf .dataIn a.other →
    (s.txAvail ≠ 0 → exec (.chTxrq m) s = .next (({ s with txAvail := s.txAvail - 1 } : State).answered
      [.requestTransmit (cmd.wdata % 2 ^ s.cfg.frameW)] ⟨true, 0, 0, 0⟩))
    ∧ (s.txAvail = 0 → o + m.toNat ≤ s.cfg.bufIn.dataIn → ∃ t, exec (.chTxrq m) s = .next t
      ∧ (∀ c b k, t.readBank c b k = if c = .dataIn ∧ b = a ∧ o ≤ k ∧ k < o + m.toNat
          then some (BitVec.ofNat 8 (cmd.wdata / 2 ^ (s.cfg.frameW + 8 * (k - o)))) else s.readBank c b k)
      ∧ t = ({ s with
          txDropped := saturated s.cfg s.txDropped, bank := t.bank
          off := s.off.upd .dataIn ((s.off.sel .dataIn).upd a (o + m.toNat)) } : State).answered [] ⟨false, 0, 1, 0⟩)
    ∧ (∀ len, s.txAvail = 0 → s.cfg.bufIn.dataIn < o + m.toNat → i = 0 →
      o ≤ s.cfg.bufIn.dataIn → len = paddedLength s.cfg .dataIn o → ∃ t, exec (.chTxrq m) s = .next t
      ∧ (∀ c b k, t.readBank c b k =
          if c = .dataIn ∧ b = a.other ∧ k < m.toNat
          then some (BitVec.ofNat 8 (cmd.wdata / 2 ^ (s.cfg.frameW + 8 * k)))
          else if c = .dataIn ∧ b = a ∧ o ≤ k ∧ k < len then some 0 else s.readBank c b k)
      ∧ t = ({ s with
          txDropped := saturated s.cfg s.txDropped, bank := t.bank
          off := s.off.upd .dataIn (((s.off.sel .dataIn).upd a len).upd a.other m.toNat)
          act := s.act.upd .dataIn a.other } : State).answered
          [.xferStart (.inn .dataIn) a len] ⟨false, 0, 2, 0⟩)
    ∧ (s.txAvail = 0 → s.cfg.bufIn.dataIn < o + m.toNat → i ≠ 0 → exec (.chTxrq m) s =
      .next (({ s with txDropped := saturated s.cfg s.txDropped, desync := true } : State).answered []
        ⟨false, 0, 3, 0⟩))

/-- 93_implementation_defined U6, log 17: under reading (ii) a dropped request sets `desync` whenever channel 1 is not ready,
also where the receipt fits; under either reading it is set where the receipt is lost. -/
def Obligations.LiteralDesyncReading : Prop :=
  ∀ (s t : State) (m : BitVec 16), s.halted = false → s.legal (.chTxrq m) = true → s.txAvail = 0 →
    s.isReady .dataIn = false → exec (.chTxrq m) s = .next t →
    (s.cfg.desyncLiteral = true → t.desync = true)
    ∧ (s.fits .dataIn m = false → t.desync = true)
    ∧ (s.cfg.desyncLiteral = false → s.fits .dataIn m = true → t.desync = s.desync)

/-- 60_exceptions sections 4 and 5, log 6: each of the three guarded commands waits while its guard is false. That waiting is a
next state in which nothing has changed is the model's choice. -/
def Obligations.GuardedCommandsWait : Prop :=
  ∀ s : State, s.halted = false →
    (∀ c, s.port = .u → s.idleOff c = 0 → exec (.bcTxc c) s = .next s)
    ∧ (s.port = .t ∨ s.port = .u → s.pPhase ≠ .idle → exec .chRst s = .next s ∧ exec (.chEn false) s = .next s)

/-! ### Agents -/

/-- 20_memory section 3 (P never waits): no micro-step on port P leaves the state as it was, whatever ports T and U have
done. -/
def Obligations.ProducerNeverWaits : Prop :=
  ∀ (i : Instr) (s : State), s.port = .p → exec i s ≠ .next s

/-- 10_state section 6, column P: what no micro-step on port P changes, and that it never lowers the slot counter. -/
def Obligations.PortPWritesOnlyItsState : Prop :=
  ∀ (i : Instr) (s t : State), s.port = .p → exec i s = .next t →
    t.get = s.get ∧ t.cCur = s.cCur ∧ t.cLim = s.cLim ∧ t.bank = s.bank ∧ t.off = s.off ∧ t.act = s.act
    ∧ t.rbank = s.rbank ∧ t.ract = s.ract ∧ t.en = s.en ∧ t.feat = s.feat ∧ t.nmBt = s.nmBt ∧ t.dtBt = s.dtBt
    ∧ t.nmBrp = s.nmBrp ∧ t.nmTseg1 = s.nmTseg1 ∧ t.nmTseg2 = s.nmTseg2 ∧ t.nmSjw = s.nmSjw
    ∧ t.dtBrp = s.dtBrp ∧ t.dtTseg1 = s.dtTseg1 ∧ t.dtTseg2 = s.dtTseg2 ∧ t.dtSjw = s.dtSjw
    ∧ t.txDropped = s.txDropped ∧ t.desync = s.desync
    ∧ (s.cfg.txSlots < 2 ^ 8 → s.txAvail.toNat ≤ s.cfg.txSlots → s.txAvail.toNat ≤ t.txAvail.toNat)

/-- 10_state section 6, columns T and U: neither port ever changes a put index, a slot or a working register of P; outside the
soft reset T changes no receive bank, no slot count, no loss counter and no drop flag, and U changes no get index, no
cursor and no loss counter. -/
def Obligations.PortsTUWriteOnlyTheirState : Prop :=
  ∀ (i : Instr) (s t : State), s.port = .t ∨ s.port = .u → exec i s = .next t →
    (t.put = s.put ∧ t.slotRx = s.slotRx ∧ t.slotTx = s.slotTx ∧ t.slotSt = s.slotSt ∧ t.pPhase = s.pPhase
      ∧ t.pRing = s.pRing ∧ t.pN = s.pN ∧ t.pI = s.pI ∧ t.pT = s.pT ∧ t.pPut = s.pPut ∧ t.pStored = s.pStored
      ∧ t.pDropped = s.pDropped ∧ t.pRetry = s.pRetry ∧ t.pDesc = s.pDesc ∧ t.pTmp = s.pTmp)
    ∧ (i ≠ .chRst → i ≠ .chEn false → t.lost = s.lost
      ∧ (s.port = .t → t.rbank = s.rbank ∧ t.ract = s.ract ∧ t.txAvail = s.txAvail ∧ t.txDropped = s.txDropped
        ∧ t.desync = s.desync)
      ∧ (s.port = .u → t.get = s.get ∧ t.cCur = s.cCur ∧ t.cLim = s.cLim))

/-- 00_scope section 4: the parameters are arguments of the model, so no step changes them. That the commands an agent has
yet to present stand in a queue of the state, and that a step takes at most the one it answers off the queue of the port in
turn, is the model's way of holding the agents, log 3. -/
def Obligations.ParametersNeverChange : Prop :=
  ∀ s t : State, step s = .next t → t.cfg = s.cfg
    ∧ ∀ q, t.input.sel q = s.input.sel q ∨ s.nextPort = some q ∧ t.input.sel q = (s.input.sel q).tail

/-! ### Reset and invariants -/

/-- R280 with the table R49: every value the spec states for power-on. `p_desc` and the model's own fields are left out
(logs 2, 14, 22). -/
def Obligations.PowerOnValues : Prop :=
  ∀ s : State, s = State.reset →
    s.put = ⟨0, 0, 0⟩ ∧ s.get = ⟨0, 0, 0⟩ ∧ s.lost = ⟨0, 0, 0⟩ ∧ s.cCur = ⟨0, 0, 0⟩ ∧ s.cLim = ⟨0, 0, 0⟩
    ∧ (∀ r k, s.readSlotAt r k = none) ∧ (∀ k, s.pTmp.read k = none) ∧ (∀ c b k, s.readBank c b k = none)
    ∧ (∀ c b k, s.readRbank c b k = none)
    ∧ s.pPhase = .idle ∧ s.pRing = .rxq ∧ s.pN = 0 ∧ s.pI = 0 ∧ s.pT = 0 ∧ s.pPut = 0 ∧ s.pStored = 0
    ∧ s.pDropped = 0 ∧ s.pRetry = 0 ∧ s.off = ⟨⟨0, 0⟩, ⟨0, 0⟩⟩ ∧ s.act = ⟨.b0, .b0⟩ ∧ s.ract = ⟨.b0, .b0⟩
    ∧ s.en = false ∧ s.feat = s.cfg.featPerm ∧ s.nmBt = 0 ∧ s.dtBt = 0 ∧ s.nmBrp = 0 ∧ s.nmTseg1 = 0
    ∧ s.nmTseg2 = 0 ∧ s.nmSjw = 0 ∧ s.dtBrp = 0 ∧ s.dtTseg1 = 0 ∧ s.dtTseg2 = 0 ∧ s.dtSjw = 0
    ∧ s.txAvail.toNat = s.cfg.txSlots ∧ s.txDropped = 0 ∧ s.desync = false ∧ s.halted = false ∧ s.haltCause = 0
    ∧ s.normalFinal = true ∧ s.drained = true ∧ s.log = []

/-- The invariant (`State.Inv`) and what keeps a run from stopping (`State.Live`) hold at power-on. -/
def Obligations.InvariantAtReset : Prop :=
  State.reset.Inv ∧ State.reset.Live

/-- R123, R197, R229, R230, the widths of R6 and the storage sizes of R60, as one invariant: every step from a state that meets
it leads to one that meets it, whichever port moves and whatever it presents. -/
def Obligations.InvariantKept : Prop :=
  ∀ s t : State, s.Inv → step s = .next t → t.Inv

/-- 93_implementation_defined U1 and 60_exceptions section 5: from a state of a run no step reads storage that was never
written, leaves the storage, or meets a command on a busy port: every step answers a next state, of the same kind. That
this includes the steps on which `BC.TXC`, `CH.RST` or `CH.EN #0` waits for its guard, answered with the state unchanged, is
the model's choice, log 6; the spec calls those stuck or refused. -/
def Obligations.RunsNeverStop : Prop :=
  ∀ s : State, s.Inv → s.Live → ∃ t, step s = .next t ∧ t.Live

/-- R123 and R254: from a state that meets the invariant no step halts for the ring invariant; a halt comes from `BC.SUB` on
a channel that is not ready to submit. -/
def Obligations.OnlySubmitHalts : Prop :=
  ∀ (i : Instr) (s t : State), s.Inv → s.halted = false → exec i s = .next t → t.halted = true →
    t.haltCause = 2 ∧ ∃ c, i = .bcSub c ∧ s.readyToSubmit c = false

/-- 93_implementation_defined U1, 60_exceptions section 5 case (c), logs 7, 12, 13, 15: where a state that no run reaches would
have the block use storage that was never written or does not exist, or presents a single push in the middle of a batch or
a batch in the middle of a single push, the model stops by name. The choice of these stops is the model's. -/
def Obligations.ModelStopsByName : Prop :=
  ∀ s : State, s.halted = false →
    (∀ i, s.legal i = true → isPush i = true ∧ s.inBatch ∨ isBatch i = true ∧ s.inPush →
      exec i s = .refused .commandWhileBusy)
    ∧ (∀ r, s.port = .t → s.cCur.sel r ≠ s.cLim.sel r → s.readSlot r (s.cCur.sel r) = none →
      exec (.rbPopn r) s = .fault .unwrittenSlot)
    ∧ (∀ i, s.legal i = true → isBatch i = true → s.pPhase = .pass2 →
      fill s.cfg.idxW s.pPut (s.get.sel s.pRing) < s.cap s.pRing → s.pTmp.read s.pI.toNat = none →
      exec i s = .fault .unwrittenScratch)
    ∧ (∀ i, s.legal i = true → isBatch i = true → s.pPhase = .pass1 → s.cfg.batchMax ≤ (s.pI - 1).toNat →
      exec i s = .fault .scratchRange)
    ∧ (∀ c, s.port = .t → s.idleOff c = 0 → s.bufIn c < s.actOff c →
      s.cfg.mpsIn.sel c < s.bufIn c → s.actOff c % s.cfg.mpsIn.sel c = 0 →
      exec (.bcSub c) s = .fault .bankRange)
end

