-- ==== Sys2Proof/Laws/Arith.lean ====
section
/-! SUPPORT. The arithmetic of R9 and the fill levels of R121 and R122, for every width: bounds, what moving an index does
to a fill level, and that `CAP` divides `2^IDX_W` (R7, R62). -/

namespace Sys2Proof.Machine

variable {w : Nat}

/-- A value that fits is shown as it is (R8). -/
@[simp] theorem zext_of_lt {n v : Nat} (h : v < 2 ^ n) : zext n v = v := if_pos h

/-- Whatever is shown has the width of its field (R13). -/
@[simp] theorem zext_lt (n v : Nat) : zext n v < 2 ^ n := by
  unfold zext
  split
  · assumption
  · exact (Config.unfit n v).isLt

theorem cat_lt {a b m n : Nat} (ha : a < 2 ^ m) (hb : b < 2 ^ n) : cat a n b < 2 ^ (m + n) := by
  unfold cat
  calc a * 2 ^ n + b < (a + 1) * 2 ^ n := by rw [Nat.add_mul, Nat.one_mul]; omega
    _ ≤ 2 ^ m * 2 ^ n := Nat.mul_le_mul_right _ ha
    _ = 2 ^ (m + n) := (Nat.pow_add 2 m n).symm

theorem two_pow_pos (w : Nat) : 0 < 2 ^ w := Nat.pow_pos (by decide)

@[simp] theorem addW_lt (w a b : Nat) : addW w a b < 2 ^ w := Nat.mod_lt _ (two_pow_pos w)

@[simp] theorem subW_lt (w a b : Nat) : subW w a b < 2 ^ w := Nat.mod_lt _ (two_pow_pos w)

@[simp] theorem slice_lt (v lo n : Nat) : slice v lo n < 2 ^ n := Nat.mod_lt _ (two_pow_pos n)

@[simp] theorem addW_zero {a : Nat} (h : a < 2 ^ w) : addW w a 0 = a := Nat.mod_eq_of_lt h

@[simp] theorem subW_self (w a : Nat) : subW w a a = 0 := by
  unfold subW
  have h := Nat.mod_lt a (two_pow_pos w)
  have h1 : a + (2 ^ w - a % 2 ^ w) = 2 ^ w * (a / 2 ^ w + 1) := by
    have h2 := Nat.div_add_mod a (2 ^ w)
    rw [Nat.mul_add, Nat.mul_one]
    omega
  rw [h1, Nat.mul_mod_right]

/-- `a -W b` on values of the width, as a case split. -/
theorem subW_eq {a b : Nat} (ha : a < 2 ^ w) (hb : b < 2 ^ w) :
    subW w a b = if b ≤ a then a - b else a + 2 ^ w - b := by
  unfold subW
  rw [Nat.mod_eq_of_lt hb]
  split
  · rw [show a + (2 ^ w - b) = (a - b) + 2 ^ w by omega, Nat.add_mod_right, Nat.mod_eq_of_lt (by omega)]
  · rw [Nat.mod_eq_of_lt (by omega)]
    omega

/-- `a +W b` on values of the width, as a case split. -/
theorem addW_eq {a b : Nat} (ha : a < 2 ^ w) (hb : b ≤ 2 ^ w) :
    addW w a b = if a + b < 2 ^ w then a + b else a + b - 2 ^ w := by
  unfold addW
  split
  · exact Nat.mod_eq_of_lt ‹_›
  · rw [Nat.mod_eq_sub_mod (by omega), Nat.mod_eq_of_lt (by omega)]

/-- Width independence (R122): a fill level is the number of entries, however often either index has wrapped. -/
theorem fill_of_counts {k : Nat} (n : Nat) (hk : k < 2 ^ w) : fill w ((n + k) % 2 ^ w) (n % 2 ^ w) = k := by
  have h0 := two_pow_pos w
  have hn := Nat.mod_lt n h0
  have h1 : (n + k) % 2 ^ w = addW w (n % 2 ^ w) k := by
    unfold addW
    rw [Nat.mod_add_mod]
  unfold fill
  rw [h1, subW_eq (addW_lt _ _ _) hn, addW_eq hn (by omega)]
  split <;> split <;> omega

/-- The index `k` places behind `g` has fill level `k`. -/
theorem fill_addW {g k : Nat} (hg : g < 2 ^ w) (hk : k < 2 ^ w) : fill w (addW w g k) g = k := by
  have h := fill_of_counts (w := w) g hk
  rwa [Nat.mod_eq_of_lt hg] at h

/-- An index is its fill level beyond `g`. -/
theorem addW_fill {p g : Nat} (hp : p < 2 ^ w) (hg : g < 2 ^ w) : addW w g (fill w p g) = p := by
  have h := subW_lt w p g
  unfold fill
  rw [addW_eq hg (by omega), subW_eq hp hg]
  split <;> split <;> omega

/-- Two indices of the width with one fill level are one index. -/
theorem fill_inj {p q g : Nat} (hp : p < 2 ^ w) (hq : q < 2 ^ w) (hg : g < 2 ^ w) (h : fill w p g = fill w q g) :
    p = q := by rw [← addW_fill hp hg, ← addW_fill hq hg, h]

@[simp] theorem fill_self (w g : Nat) : fill w g g = 0 := subW_self w g

@[simp] theorem fill_lt (w p g : Nat) : fill w p g < 2 ^ w := subW_lt w p g

/-- A published entry raises the fill level by one. -/
theorem fill_addW_one {p g : Nat} (hp : p < 2 ^ w) (hg : g < 2 ^ w) (h : fill w p g + 1 < 2 ^ w) :
    fill w (addW w p 1) g = fill w p g + 1 := by
  unfold fill at h ⊢
  rw [subW_eq hp hg] at h ⊢
  rw [subW_eq (addW_lt _ _ _) hg, addW_eq hp (by omega)]
  split at h <;> split <;> split <;> omega

/-- A release to index `c` takes `c`'s fill level off every later index. -/
theorem fill_release {p c g : Nat} (hp : p < 2 ^ w) (hc : c < 2 ^ w) (hg : g < 2 ^ w) (h : fill w c g ≤ fill w p g) :
    fill w p c = fill w p g - fill w c g := by
  unfold fill at h ⊢
  rw [subW_eq hp hg, subW_eq hc hg] at h ⊢
  rw [subW_eq hp hc]
  split at h <;> split at h <;> split <;> omega

/-- What R7 says of a capacity: a power of two that divides `2^IDX_W`, with room for twice as much. -/
theorem capValid_iff (n : Nat) : capValid w n = true ↔ ∃ k, n = 2 ^ k ∧ k + 1 ≤ w := by
  unfold capValid
  simp only [Bool.and_eq_true, decide_eq_true_eq]
  constructor
  · rintro ⟨h1, h2⟩
    refine ⟨Nat.log2 n, h1.symm, ?_⟩
    rw [← h1, ← Nat.pow_succ'] at h2
    exact (Nat.pow_le_pow_iff_right (by decide)).1 h2
  · rintro ⟨k, rfl, hk⟩
    refine ⟨by rw [Nat.log2_two_pow], ?_⟩
    rw [← Nat.pow_succ']
    exact Nat.pow_le_pow_right (by decide) hk

theorem capValid_pos {n : Nat} (h : capValid w n = true) : 0 < n := by
  obtain ⟨k, rfl, -⟩ := (capValid_iff n).1 h
  exact two_pow_pos k

theorem capValid_lt {n : Nat} (h : capValid w n = true) : n < 2 ^ w := by
  obtain ⟨k, rfl, hk⟩ := (capValid_iff n).1 h
  exact Nat.pow_lt_pow_right (by decide) hk

theorem capValid_dvd {n : Nat} (h : capValid w n = true) : n ∣ 2 ^ w := by
  obtain ⟨k, rfl, hk⟩ := (capValid_iff n).1 h
  exact Nat.pow_dvd_pow 2 (by omega)

/-- R7 for one ring of a block whose parameters meet it. -/
theorem Params.capValid_of_valid {P : Params} (h : P.valid = true) (r : Ring) : capValid P.idxW (P.cap.sel r) = true := by
  unfold Params.valid at h
  simp only [Bool.and_eq_true] at h
  cases r
  · exact h.1.1.1.1.1.1.1.1
  · exact h.1.1.1.1.1.1.1.2
  · exact h.1.1.1.1.1.1.2

/-- R7 for one in-channel: the size, the packet size, the offset width and the padding. -/
theorem Params.bufIn_of_valid {P : Params} (h : P.valid = true) (c : InChan) :
    1 ≤ P.bufIn.sel c ∧ 1 ≤ P.mpsIn.sel c ∧ P.bufIn.sel c + P.padLen < 2 ^ P.offW
      ∧ (P.bufIn.sel c ≤ P.mpsIn.sel c ∨ P.padLen % P.mpsIn.sel c ≠ 0) := by
  unfold Params.valid bufValid at h
  simp only [Bool.and_eq_true, Bool.or_eq_true, decide_eq_true_eq] at h
  cases c
  · exact ⟨h.1.1.1.1.1.2.1.1.1, h.1.1.1.1.1.2.1.1.2, h.1.1.1.1.1.2.1.2, h.1.1.1.1.1.2.2⟩
  · exact ⟨h.1.1.1.1.2.1.1.1, h.1.1.1.1.2.1.1.2, h.1.1.1.1.2.1.2, h.1.1.1.1.2.2⟩

/-- Slot numbers go on across the wrap of an index (R62). -/
theorem addW_mod_cap {n : Nat} (h : capValid w n = true) (g k : Nat) : addW w g k % n = (g + k) % n :=
  Nat.mod_mod_of_dvd _ (capValid_dvd h)

end Sys2Proof.Machine
end

