-- ==== Sys2Proof/Laws/Decode.lean ====
section
/-! SUPPORT. The fields of an assembled command word, and that the two readings of the bounds of R95 (e) are one. -/

namespace Sys2Proof

@[simp] theorem wordOp_assemble (op : BitVec 8) (sel : BitVec 4) (imm : BitVec 16) :
    wordOp (assemble op sel imm) = op := by
  apply BitVec.eq_of_getLsbD_eq
  intro i hi
  unfold wordOp assemble
  simp only [BitVec.getLsbD_extractLsb', BitVec.getLsbD_append]
  have h1 : ¬ 24 + i < 16 := by omega
  have h2 : ¬ 24 + i - 16 < 4 := by omega
  have h3 : ¬ 24 + i - 16 - 4 < 4 := by omega
  have h4 : 24 + i - 16 - 4 - 4 = i := by omega
  simp [hi, h1, h2, h3, h4]

@[simp] theorem wordSel_assemble (op : BitVec 8) (sel : BitVec 4) (imm : BitVec 16) :
    wordSel (assemble op sel imm) = sel := by
  apply BitVec.eq_of_getLsbD_eq
  intro i hi
  unfold wordSel assemble
  simp only [BitVec.getLsbD_extractLsb', BitVec.getLsbD_append]
  have h1 : ¬ 20 + i < 16 := by omega
  have h2 : ¬ 20 + i - 16 < 4 := by omega
  have h3 : 20 + i - 16 - 4 < 4 := by omega
  have h4 : 20 + i - 16 - 4 = i := by omega
  simp [hi, h1, h2, h4]

@[simp] theorem wordZero_assemble (op : BitVec 8) (sel : BitVec 4) (imm : BitVec 16) :
    wordZero (assemble op sel imm) = 0 := by
  apply BitVec.eq_of_getLsbD_eq
  intro i hi
  unfold wordZero assemble
  simp only [BitVec.getLsbD_extractLsb', BitVec.getLsbD_append]
  have h1 : ¬ 16 + i < 16 := by omega
  have h2 : 16 + i - 16 = i := by omega
  simp [h2, hi]

@[simp] theorem wordImm_assemble (op : BitVec 8) (sel : BitVec 4) (imm : BitVec 16) :
    wordImm (assemble op sel imm) = imm := by
  apply BitVec.eq_of_getLsbD_eq
  intro i hi
  unfold wordImm assemble
  simp only [BitVec.getLsbD_extractLsb', BitVec.getLsbD_append]
  simp [hi]

/-- A word is its four fields. -/
theorem word_eq_of_fields {w v : Word} (h1 : wordOp w = wordOp v) (h2 : wordSel w = wordSel v)
    (h3 : wordZero w = wordZero v) (h4 : wordImm w = wordImm v) : w = v := by
  apply BitVec.eq_of_getLsbD_eq
  intro i hi
  by_cases a : i < 16
  · have := congrArg (fun x => x.getLsbD i) h4
    simpa [wordImm, BitVec.getLsbD_extractLsb', a] using this
  · by_cases b : i < 20
    · have := congrArg (fun x => x.getLsbD (i - 16)) h3
      have e : 16 + (i - 16) = i := by omega
      have l : i - 16 < 4 := by omega
      simpa [wordZero, BitVec.getLsbD_extractLsb', e, l] using this
    · by_cases c : i < 24
      · have := congrArg (fun x => x.getLsbD (i - 20)) h2
        have e : 20 + (i - 20) = i := by omega
        have l : i - 20 < 4 := by omega
        simpa [wordSel, BitVec.getLsbD_extractLsb', e, l] using this
      · have := congrArg (fun x => x.getLsbD (i - 24)) h1
        have e : 24 + (i - 24) = i := by omega
        have l : i - 24 < 8 := by omega
        simpa [wordOp, BitVec.getLsbD_extractLsb', e, l] using this

/-- The bounds that a command is carried out under are those of a well-formed command. -/
theorem inBounds_eq_wellFormed (P : Params) (i : Instr) : i.inBounds P = i.wellFormed P := by
  cases i <;> rfl

end Sys2Proof
end

