-- ==== Sys2Proof/Laws/Memory.lean ====
section
/-! SUPPORT. The laws of a storage space: a read after a write gives what was written, a write leaves every other unit
alone, and every write keeps the canonical form and the size. -/

namespace Sys2Proof.Machine

variable {α : Type}

@[simp] theorem Memory.read_nil (a : Nat) : Memory.read ([] : Memory α) a = none := rfl

@[simp] theorem Memory.read_cons (k : Nat) (v : α) (m : Memory α) (a : Nat) :
    Memory.read ((k, v) :: m) a = if k = a then some v else Memory.read m a := rfl

theorem Memory.read_append (m n : Memory α) (a : Nat) :
    Memory.read (m ++ n) a = (Memory.read m a).or (Memory.read n a) := by
  induction m with
  | nil => simp
  | cons x m ih =>
    obtain ⟨k, v⟩ := x
    by_cases h : k = a <;> simp [h, ih]

theorem Memory.read_filter (p : Nat → Bool) (m : Memory α) (a : Nat) :
    Memory.read (m.filter fun x => p x.1) a = if p a then Memory.read m a else none := by
  induction m with
  | nil => simp
  | cons x m ih =>
    obtain ⟨k, v⟩ := x
    by_cases hk : k = a
    · subst hk
      by_cases h : p k = true <;> simp [h, ih]
    · by_cases h : p k = true <;> simp [h, hk, ih]

theorem cellsFrom_read (a : Nat) (vs : List (α)) (k : Nat) :
    Memory.read (cellsFrom a vs) k = if a ≤ k then vs[k - a]? else none := by
  induction vs generalizing a with
  | nil => simp [cellsFrom]
  | cons v vs ih =>
    simp only [cellsFrom, Memory.read_cons, ih]
    by_cases h : a = k
    · simp [h]
    · by_cases h' : a ≤ k
      · have h1 : a + 1 ≤ k := by omega
        obtain ⟨d, rfl⟩ := Nat.exists_eq_add_of_le h1
        have h2 : a + 1 + d - a = d + 1 := by omega
        simp [h, h', h2]
      · have h1 : ¬ a + 1 ≤ k := by omega
        simp [h, h', h1]

/-- Read after a run of writes: inside the run its values, outside what stood there. -/
@[simp] theorem Memory.read_writeRun (m : Memory α) (a : Nat) (vs : List (α)) (k : Nat) :
    (m.writeRun a vs).read k = if a ≤ k ∧ k < a + vs.length then vs[k - a]? else m.read k := by
  have h1 := Memory.read_filter (fun x => decide (x < a)) m k
  have h2 := Memory.read_filter (fun x => decide (a + vs.length ≤ x)) m k
  unfold Memory.writeRun
  rw [Memory.read_append, Memory.read_append, h1, h2, cellsFrom_read]
  by_cases hk : k < a
  · have : ¬ a ≤ k := by omega
    have h3 : ¬ a + vs.length ≤ k := by omega
    simp [hk, this, h3]
  · by_cases hk' : k < a + vs.length
    · have h3 : a ≤ k := by omega
      have h4 : k - a < vs.length := by omega
      simp [hk, hk', h3, h4]
    · have h3 : a ≤ k := by omega
      have h4 : vs.length ≤ k - a := by omega
      have h5 : a + vs.length ≤ k := by omega
      have h6 : vs[k - a]? = none := List.getElem?_eq_none h4
      simp [hk, hk', h3, h5, h6]

/-- Read after write of one unit. -/
@[simp] theorem Memory.read_write (m : Memory α) (a : Nat) (v : α) (k : Nat) :
    (m.write a v).read k = if k = a then some v else m.read k := by
  unfold Memory.write
  rw [Memory.read_writeRun]
  by_cases h : k = a
  · subst h; simp
  · have : ¬ (a ≤ k ∧ k < a + [v].length) := by simp only [List.length_singleton]; omega
    rw [if_neg this, if_neg h]

theorem mem_cellsFrom {a : Nat} {vs : List (α)} {x : Nat × α} (h : x ∈ cellsFrom a vs) :
    a ≤ x.1 ∧ x.1 < a + vs.length := by
  induction vs generalizing a with
  | nil => simp [cellsFrom] at h
  | cons v vs ih =>
    simp only [cellsFrom, List.mem_cons] at h
    rcases h with rfl | h
    · simp
    · have := ih h
      simp only [List.length_cons]
      omega

theorem cellsFrom_wf (a : Nat) (vs : List (α)) : Memory.Wf (cellsFrom a vs) := by
  induction vs generalizing a with
  | nil => exact List.Pairwise.nil
  | cons v vs ih =>
    refine List.Pairwise.cons (fun x hx => ?_) (ih (a + 1))
    have := (mem_cellsFrom hx).1
    show a < x.1
    omega

/-- Every write keeps the canonical form. -/
theorem Memory.wf_writeRun {m : Memory α} (h : m.Wf) (a : Nat) (vs : List (α)) : (m.writeRun a vs).Wf := by
  unfold Memory.writeRun
  refine List.pairwise_append.2 ⟨List.pairwise_append.2 ⟨h.filter _, cellsFrom_wf a vs, ?_⟩, h.filter _, ?_⟩
  · intro x hx y hy
    have h1 := (List.mem_filter.1 hx).2
    have h2 := (mem_cellsFrom hy).1
    simp only [decide_eq_true_eq] at h1
    omega
  · intro x hx y hy
    have h1 := (List.mem_filter.1 hy).2
    simp only [decide_eq_true_eq] at h1
    rcases List.mem_append.1 hx with hx | hx
    · have h2 := (List.mem_filter.1 hx).2
      simp only [decide_eq_true_eq] at h2
      omega
    · have h2 := (mem_cellsFrom hx).2
      omega

theorem Memory.wf_write {m : Memory α} (h : m.Wf) (a : Nat) (v : α) : (m.write a v).Wf :=
  Memory.wf_writeRun h a [v]

/-- A write inside the space keeps every key inside it. -/
theorem Memory.within_writeRun {m : Memory α} {n : Nat} (h : m.Within n) {a : Nat} {vs : List (α)}
    (ha : a + vs.length ≤ n) : (m.writeRun a vs).Within n := by
  intro x hx
  unfold Memory.writeRun at hx
  rcases List.mem_append.1 hx with hx | hx
  · rcases List.mem_append.1 hx with hx | hx
    · exact h x (List.mem_filter.1 hx).1
    · have := (mem_cellsFrom hx).2
      omega
  · exact h x (List.mem_filter.1 hx).1

theorem Memory.within_write {m : Memory α} {n : Nat} (h : m.Within n) {a : Nat} {v : α} (ha : a < n) :
    (m.write a v).Within n :=
  Memory.within_writeRun h (by simpa using ha)

/-- Writing never makes a written unit unwritten. -/
theorem Memory.isSome_write {m : Memory α} {a k : Nat} {v : α} (h : (m.read k).isSome) :
    ((m.write a v).read k).isSome := by
  rw [Memory.read_write]
  split <;> simp_all

/-- What is read stands in the list. -/
theorem Memory.mem_of_read {m : Memory α} {k : Nat} {v : α} (h : m.read k = some v) : (k, v) ∈ m := by
  induction m with
  | nil => simp at h
  | cons x m ih =>
    obtain ⟨a, b⟩ := x
    rw [Memory.read_cons] at h
    split at h
    · simp_all
    · exact List.mem_cons_of_mem _ (ih h)

end Sys2Proof.Machine
end

