-- ==== Sys2Proof/Laws/State.lean ====
section
/-! SUPPORT. Selecting after updating, for every container, and one lemma per field per update of the state, so that no later
proof unfolds an update. -/

namespace Sys2Proof

@[simp] theorem PerRing.sel_upd {α : Type} (x : PerRing α) (i j : Ring) (v : α) :
    (x.upd i v).sel j = if j = i then v else x.sel j := by
  cases i <;> cases j <;> rfl

theorem PerRing.ext_sel {α : Type} {x y : PerRing α} (h : ∀ i, x.sel i = y.sel i) : x = y := by
  cases x; cases y
  simp only [PerRing.mk.injEq]
  exact ⟨h .rxq, h .txrq, h .stq⟩

@[simp] theorem PerBank.sel_upd {α : Type} (x : PerBank α) (i j : Bank) (v : α) :
    (x.upd i v).sel j = if j = i then v else x.sel j := by
  cases i <;> cases j <;> rfl

theorem PerBank.ext_sel {α : Type} {x y : PerBank α} (h : ∀ i, x.sel i = y.sel i) : x = y := by
  cases x; cases y
  simp only [PerBank.mk.injEq]
  exact ⟨h .b0, h .b1⟩

@[simp] theorem PerIn.sel_upd {α : Type} (x : PerIn α) (i j : InChan) (v : α) :
    (x.upd i v).sel j = if j = i then v else x.sel j := by
  cases i <;> cases j <;> rfl

theorem PerIn.ext_sel {α : Type} {x y : PerIn α} (h : ∀ i, x.sel i = y.sel i) : x = y := by
  cases x; cases y
  simp only [PerIn.mk.injEq]
  exact ⟨h .cmdIn, h .dataIn⟩

@[simp] theorem PerOut.sel_upd {α : Type} (x : PerOut α) (i j : OutChan) (v : α) :
    (x.upd i v).sel j = if j = i then v else x.sel j := by
  cases i <;> cases j <;> rfl

theorem PerOut.ext_sel {α : Type} {x y : PerOut α} (h : ∀ i, x.sel i = y.sel i) : x = y := by
  cases x; cases y
  simp only [PerOut.mk.injEq]
  exact ⟨h .cmdOut, h .dataOut⟩

@[simp] theorem PerPort.sel_upd {α : Type} (x : PerPort α) (i j : Port) (v : α) :
    (x.upd i v).sel j = if j = i then v else x.sel j := by
  cases i <;> cases j <;> rfl

theorem PerPort.ext_sel {α : Type} {x y : PerPort α} (h : ∀ i, x.sel i = y.sel i) : x = y := by
  cases x; cases y
  simp only [PerPort.mk.injEq]
  exact ⟨h .p, h .u, h .t⟩

@[simp] theorem Bank.other_other (b : Bank) : b.other.other = b := by cases b <;> rfl

@[simp] theorem Bank.other_ne (b : Bank) : b.other ≠ b := by cases b <;> decide

@[simp] theorem Bank.ne_other (b : Bank) : b ≠ b.other := by cases b <;> decide

theorem Bank.eq_or_other (a b : Bank) : b = a ∨ b = a.other := by cases a <;> cases b <;> decide

end Sys2Proof

namespace Sys2Proof.Machine

@[simp] theorem State.emit_put (s : State) (e : Event) : (s.emit e).put = s.put := rfl
@[simp] theorem State.emit_get (s : State) (e : Event) : (s.emit e).get = s.get := rfl
@[simp] theorem State.emit_lost (s : State) (e : Event) : (s.emit e).lost = s.lost := rfl
@[simp] theorem State.emit_cCur (s : State) (e : Event) : (s.emit e).cCur = s.cCur := rfl
@[simp] theorem State.emit_cLim (s : State) (e : Event) : (s.emit e).cLim = s.cLim := rfl
@[simp] theorem State.emit_slotRx (s : State) (e : Event) : (s.emit e).slotRx = s.slotRx := rfl
@[simp] theorem State.emit_slotTx (s : State) (e : Event) : (s.emit e).slotTx = s.slotTx := rfl
@[simp] theorem State.emit_slotSt (s : State) (e : Event) : (s.emit e).slotSt = s.slotSt := rfl
@[simp] theorem State.emit_pPhase (s : State) (e : Event) : (s.emit e).pPhase = s.pPhase := rfl
@[simp] theorem State.emit_pRing (s : State) (e : Event) : (s.emit e).pRing = s.pRing := rfl
@[simp] theorem State.emit_pN (s : State) (e : Event) : (s.emit e).pN = s.pN := rfl
@[simp] theorem State.emit_pI (s : State) (e : Event) : (s.emit e).pI = s.pI := rfl
@[simp] theorem State.emit_pT (s : State) (e : Event) : (s.emit e).pT = s.pT := rfl
@[simp] theorem State.emit_pPut (s : State) (e : Event) : (s.emit e).pPut = s.pPut := rfl
@[simp] theorem State.emit_pStored (s : State) (e : Event) : (s.emit e).pStored = s.pStored := rfl
@[simp] theorem State.emit_pDropped (s : State) (e : Event) : (s.emit e).pDropped = s.pDropped := rfl
@[simp] theorem State.emit_pRetry (s : State) (e : Event) : (s.emit e).pRetry = s.pRetry := rfl
@[simp] theorem State.emit_pDesc (s : State) (e : Event) : (s.emit e).pDesc = s.pDesc := rfl
@[simp] theorem State.emit_pTmp (s : State) (e : Event) : (s.emit e).pTmp = s.pTmp := rfl
@[simp] theorem State.emit_bank (s : State) (e : Event) : (s.emit e).bank = s.bank := rfl
@[simp] theorem State.emit_off (s : State) (e : Event) : (s.emit e).off = s.off := rfl
@[simp] theorem State.emit_act (s : State) (e : Event) : (s.emit e).act = s.act := rfl
@[simp] theorem State.emit_rbank (s : State) (e : Event) : (s.emit e).rbank = s.rbank := rfl
@[simp] theorem State.emit_ract (s : State) (e : Event) : (s.emit e).ract = s.ract := rfl
@[simp] theorem State.emit_en (s : State) (e : Event) : (s.emit e).en = s.en := rfl
@[simp] theorem State.emit_feat (s : State) (e : Event) : (s.emit e).feat = s.feat := rfl
@[simp] theorem State.emit_nmBt (s : State) (e : Event) : (s.emit e).nmBt = s.nmBt := rfl
@[simp] theorem State.emit_dtBt (s : State) (e : Event) : (s.emit e).dtBt = s.dtBt := rfl
@[simp] theorem State.emit_nmBrp (s : State) (e : Event) : (s.emit e).nmBrp = s.nmBrp := rfl
@[simp] theorem State.emit_nmTseg1 (s : State) (e : Event) : (s.emit e).nmTseg1 = s.nmTseg1 := rfl
@[simp] theorem State.emit_nmTseg2 (s : State) (e : Event) : (s.emit e).nmTseg2 = s.nmTseg2 := rfl
@[simp] theorem State.emit_nmSjw (s : State) (e : Event) : (s.emit e).nmSjw = s.nmSjw := rfl
@[simp] theorem State.emit_dtBrp (s : State) (e : Event) : (s.emit e).dtBrp = s.dtBrp := rfl
@[simp] theorem State.emit_dtTseg1 (s : State) (e : Event) : (s.emit e).dtTseg1 = s.dtTseg1 := rfl
@[simp] theorem State.emit_dtTseg2 (s : State) (e : Event) : (s.emit e).dtTseg2 = s.dtTseg2 := rfl
@[simp] theorem State.emit_dtSjw (s : State) (e : Event) : (s.emit e).dtSjw = s.dtSjw := rfl
@[simp] theorem State.emit_txAvail (s : State) (e : Event) : (s.emit e).txAvail = s.txAvail := rfl
@[simp] theorem State.emit_txDropped (s : State) (e : Event) : (s.emit e).txDropped = s.txDropped := rfl
@[simp] theorem State.emit_desync (s : State) (e : Event) : (s.emit e).desync = s.desync := rfl
@[simp] theorem State.emit_halted (s : State) (e : Event) : (s.emit e).halted = s.halted := rfl
@[simp] theorem State.emit_haltCause (s : State) (e : Event) : (s.emit e).haltCause = s.haltCause := rfl
@[simp] theorem State.emit_cfg (s : State) (e : Event) : (s.emit e).cfg = s.cfg := rfl
@[simp] theorem State.emit_input (s : State) (e : Event) : (s.emit e).input = s.input := rfl
@[simp] theorem State.emit_log (s : State) (e : Event) : (s.emit e).log = s.log ++ [.event e] := rfl
@[simp] theorem State.emit_turns (s : State) (e : Event) : (s.emit e).turns = s.turns := rfl
@[simp] theorem State.emit_ticks (s : State) (e : Event) : (s.emit e).ticks = s.ticks := rfl
@[simp] theorem State.emit_port (s : State) (e : Event) : (s.emit e).port = s.port := rfl

@[simp] theorem State.respond_put (s : State) (r : Response) : (s.respond r).put = s.put := rfl
@[simp] theorem State.respond_get (s : State) (r : Response) : (s.respond r).get = s.get := rfl
@[simp] theorem State.respond_lost (s : State) (r : Response) : (s.respond r).lost = s.lost := rfl
@[simp] theorem State.respond_cCur (s : State) (r : Response) : (s.respond r).cCur = s.cCur := rfl
@[simp] theorem State.respond_cLim (s : State) (r : Response) : (s.respond r).cLim = s.cLim := rfl
@[simp] theorem State.respond_slotRx (s : State) (r : Response) : (s.respond r).slotRx = s.slotRx := rfl
@[simp] theorem State.respond_slotTx (s : State) (r : Response) : (s.respond r).slotTx = s.slotTx := rfl
@[simp] theorem State.respond_slotSt (s : State) (r : Response) : (s.respond r).slotSt = s.slotSt := rfl
@[simp] theorem State.respond_pPhase (s : State) (r : Response) : (s.respond r).pPhase = s.pPhase := rfl
@[simp] theorem State.respond_pRing (s : State) (r : Response) : (s.respond r).pRing = s.pRing := rfl
@[simp] theorem State.respond_pN (s : State) (r : Response) : (s.respond r).pN = s.pN := rfl
@[simp] theorem State.respond_pI (s : State) (r : Response) : (s.respond r).pI = s.pI := rfl
@[simp] theorem State.respond_pT (s : State) (r : Response) : (s.respond r).pT = s.pT := rfl
@[simp] theorem State.respond_pPut (s : State) (r : Response) : (s.respond r).pPut = s.pPut := rfl
@[simp] theorem State.respond_pStored (s : State) (r : Response) : (s.respond r).pStored = s.pStored := rfl
@[simp] theorem State.respond_pDropped (s : State) (r : Response) : (s.respond r).pDropped = s.pDropped := rfl
@[simp] theorem State.respond_pRetry (s : State) (r : Response) : (s.respond r).pRetry = s.pRetry := rfl
@[simp] theorem State.respond_pDesc (s : State) (r : Response) : (s.respond r).pDesc = s.pDesc := rfl
@[simp] theorem State.respond_pTmp (s : State) (r : Response) : (s.respond r).pTmp = s.pTmp := rfl
@[simp] theorem State.respond_bank (s : State) (r : Response) : (s.respond r).bank = s.bank := rfl
@[simp] theorem State.respond_off (s : State) (r : Response) : (s.respond r).off = s.off := rfl
@[simp] theorem State.respond_act (s : State) (r : Response) : (s.respond r).act = s.act := rfl
@[simp] theorem State.respond_rbank (s : State) (r : Response) : (s.respond r).rbank = s.rbank := rfl
@[simp] theorem State.respond_ract (s : State) (r : Response) : (s.respond r).ract = s.ract := rfl
@[simp] theorem State.respond_en (s : State) (r : Response) : (s.respond r).en = s.en := rfl
@[simp] theorem State.respond_feat (s : State) (r : Response) : (s.respond r).feat = s.feat := rfl
@[simp] theorem State.respond_nmBt (s : State) (r : Response) : (s.respond r).nmBt = s.nmBt := rfl
@[simp] theorem State.respond_dtBt (s : State) (r : Response) : (s.respond r).dtBt = s.dtBt := rfl
@[simp] theorem State.respond_nmBrp (s : State) (r : Response) : (s.respond r).nmBrp = s.nmBrp := rfl
@[simp] theorem State.respond_nmTseg1 (s : State) (r : Response) : (s.respond r).nmTseg1 = s.nmTseg1 := rfl
@[simp] theorem State.respond_nmTseg2 (s : State) (r : Response) : (s.respond r).nmTseg2 = s.nmTseg2 := rfl
@[simp] theorem State.respond_nmSjw (s : State) (r : Response) : (s.respond r).nmSjw = s.nmSjw := rfl
@[simp] theorem State.respond_dtBrp (s : State) (r : Response) : (s.respond r).dtBrp = s.dtBrp := rfl
@[simp] theorem State.respond_dtTseg1 (s : State) (r : Response) : (s.respond r).dtTseg1 = s.dtTseg1 := rfl
@[simp] theorem State.respond_dtTseg2 (s : State) (r : Response) : (s.respond r).dtTseg2 = s.dtTseg2 := rfl
@[simp] theorem State.respond_dtSjw (s : State) (r : Response) : (s.respond r).dtSjw = s.dtSjw := rfl
@[simp] theorem State.respond_txAvail (s : State) (r : Response) : (s.respond r).txAvail = s.txAvail := rfl
@[simp] theorem State.respond_txDropped (s : State) (r : Response) : (s.respond r).txDropped = s.txDropped := rfl
@[simp] theorem State.respond_desync (s : State) (r : Response) : (s.respond r).desync = s.desync := rfl
@[simp] theorem State.respond_halted (s : State) (r : Response) : (s.respond r).halted = s.halted := rfl
@[simp] theorem State.respond_haltCause (s : State) (r : Response) : (s.respond r).haltCause = s.haltCause := rfl
@[simp] theorem State.respond_cfg (s : State) (r : Response) : (s.respond r).cfg = s.cfg := rfl
@[simp] theorem State.respond_input (s : State) (r : Response) : (s.respond r).input = s.input.upd s.port (s.input.sel s.port).tail := rfl
@[simp] theorem State.respond_log (s : State) (r : Response) : (s.respond r).log = s.log ++ [.response s.port r] := rfl
@[simp] theorem State.respond_turns (s : State) (r : Response) : (s.respond r).turns = s.turns := rfl
@[simp] theorem State.respond_ticks (s : State) (r : Response) : (s.respond r).ticks = s.ticks := rfl
@[simp] theorem State.respond_port (s : State) (r : Response) : (s.respond r).port = s.port := rfl

@[simp] theorem State.halt_put (s : State) (c : BitVec 4) : (s.halt c).put = s.put := rfl
@[simp] theorem State.halt_get (s : State) (c : BitVec 4) : (s.halt c).get = s.get := rfl
@[simp] theorem State.halt_lost (s : State) (c : BitVec 4) : (s.halt c).lost = s.lost := rfl
@[simp] theorem State.halt_cCur (s : State) (c : BitVec 4) : (s.halt c).cCur = s.cCur := rfl
@[simp] theorem State.halt_cLim (s : State) (c : BitVec 4) : (s.halt c).cLim = s.cLim := rfl
@[simp] theorem State.halt_slotRx (s : State) (c : BitVec 4) : (s.halt c).slotRx = s.slotRx := rfl
@[simp] theorem State.halt_slotTx (s : State) (c : BitVec 4) : (s.halt c).slotTx = s.slotTx := rfl
@[simp] theorem State.halt_slotSt (s : State) (c : BitVec 4) : (s.halt c).slotSt = s.slotSt := rfl
@[simp] theorem State.halt_pPhase (s : State) (c : BitVec 4) : (s.halt c).pPhase = s.pPhase := rfl
@[simp] theorem State.halt_pRing (s : State) (c : BitVec 4) : (s.halt c).pRing = s.pRing := rfl
@[simp] theorem State.halt_pN (s : State) (c : BitVec 4) : (s.halt c).pN = s.pN := rfl
@[simp] theorem State.halt_pI (s : State) (c : BitVec 4) : (s.halt c).pI = s.pI := rfl
@[simp] theorem State.halt_pT (s : State) (c : BitVec 4) : (s.halt c).pT = s.pT := rfl
@[simp] theorem State.halt_pPut (s : State) (c : BitVec 4) : (s.halt c).pPut = s.pPut := rfl
@[simp] theorem State.halt_pStored (s : State) (c : BitVec 4) : (s.halt c).pStored = s.pStored := rfl
@[simp] theorem State.halt_pDropped (s : State) (c : BitVec 4) : (s.halt c).pDropped = s.pDropped := rfl
@[simp] theorem State.halt_pRetry (s : State) (c : BitVec 4) : (s.halt c).pRetry = s.pRetry := rfl
@[simp] theorem State.halt_pDesc (s : State) (c : BitVec 4) : (s.halt c).pDesc = s.pDesc := rfl
@[simp] theorem State.halt_pTmp (s : State) (c : BitVec 4) : (s.halt c).pTmp = s.pTmp := rfl
@[simp] theorem State.halt_bank (s : State) (c : BitVec 4) : (s.halt c).bank = s.bank := rfl
@[simp] theorem State.halt_off (s : State) (c : BitVec 4) : (s.halt c).off = s.off := rfl
@[simp] theorem State.halt_act (s : State) (c : BitVec 4) : (s.halt c).act = s.act := rfl
@[simp] theorem State.halt_rbank (s : State) (c : BitVec 4) : (s.halt c).rbank = s.rbank := rfl
@[simp] theorem State.halt_ract (s : State) (c : BitVec 4) : (s.halt c).ract = s.ract := rfl
@[simp] theorem State.halt_en (s : State) (c : BitVec 4) : (s.halt c).en = s.en := rfl
@[simp] theorem State.halt_feat (s : State) (c : BitVec 4) : (s.halt c).feat = s.feat := rfl
@[simp] theorem State.halt_nmBt (s : State) (c : BitVec 4) : (s.halt c).nmBt = s.nmBt := rfl
@[simp] theorem State.halt_dtBt (s : State) (c : BitVec 4) : (s.halt c).dtBt = s.dtBt := rfl
@[simp] theorem State.halt_nmBrp (s : State) (c : BitVec 4) : (s.halt c).nmBrp = s.nmBrp := rfl
@[simp] theorem State.halt_nmTseg1 (s : State) (c : BitVec 4) : (s.halt c).nmTseg1 = s.nmTseg1 := rfl
@[simp] theorem State.halt_nmTseg2 (s : State) (c : BitVec 4) : (s.halt c).nmTseg2 = s.nmTseg2 := rfl
@[simp] theorem State.halt_nmSjw (s : State) (c : BitVec 4) : (s.halt c).nmSjw = s.nmSjw := rfl
@[simp] theorem State.halt_dtBrp (s : State) (c : BitVec 4) : (s.halt c).dtBrp = s.dtBrp := rfl
@[simp] theorem State.halt_dtTseg1 (s : State) (c : BitVec 4) : (s.halt c).dtTseg1 = s.dtTseg1 := rfl
@[simp] theorem State.halt_dtTseg2 (s : State) (c : BitVec 4) : (s.halt c).dtTseg2 = s.dtTseg2 := rfl
@[simp] theorem State.halt_dtSjw (s : State) (c : BitVec 4) : (s.halt c).dtSjw = s.dtSjw := rfl
@[simp] theorem State.halt_txAvail (s : State) (c : BitVec 4) : (s.halt c).txAvail = s.txAvail := rfl
@[simp] theorem State.halt_txDropped (s : State) (c : BitVec 4) : (s.halt c).txDropped = s.txDropped := rfl
@[simp] theorem State.halt_desync (s : State) (c : BitVec 4) : (s.halt c).desync = s.desync := rfl
@[simp] theorem State.halt_halted (s : State) (c : BitVec 4) : (s.halt c).halted = true := rfl
@[simp] theorem State.halt_haltCause (s : State) (c : BitVec 4) : (s.halt c).haltCause = c := rfl
@[simp] theorem State.halt_cfg (s : State) (c : BitVec 4) : (s.halt c).cfg = s.cfg := rfl
@[simp] theorem State.halt_input (s : State) (c : BitVec 4) : (s.halt c).input = s.input.upd s.port (s.input.sel s.port).tail := rfl
@[simp] theorem State.halt_turns (s : State) (c : BitVec 4) : (s.halt c).turns = s.turns := rfl
@[simp] theorem State.halt_ticks (s : State) (c : BitVec 4) : (s.halt c).ticks = s.ticks := rfl
@[simp] theorem State.halt_port (s : State) (c : BitVec 4) : (s.halt c).port = s.port := rfl

@[simp] theorem State.select_put (s : State) (q : Port) : (s.select q).put = s.put := rfl
@[simp] theorem State.select_get (s : State) (q : Port) : (s.select q).get = s.get := rfl
@[simp] theorem State.select_lost (s : State) (q : Port) : (s.select q).lost = s.lost := rfl
@[simp] theorem State.select_cCur (s : State) (q : Port) : (s.select q).cCur = s.cCur := rfl
@[simp] theorem State.select_cLim (s : State) (q : Port) : (s.select q).cLim = s.cLim := rfl
@[simp] theorem State.select_slotRx (s : State) (q : Port) : (s.select q).slotRx = s.slotRx := rfl
@[simp] theorem State.select_slotTx (s : State) (q : Port) : (s.select q).slotTx = s.slotTx := rfl
@[simp] theorem State.select_slotSt (s : State) (q : Port) : (s.select q).slotSt = s.slotSt := rfl
@[simp] theorem State.select_pPhase (s : State) (q : Port) : (s.select q).pPhase = s.pPhase := rfl
@[simp] theorem State.select_pRing (s : State) (q : Port) : (s.select q).pRing = s.pRing := rfl
@[simp] theorem State.select_pN (s : State) (q : Port) : (s.select q).pN = s.pN := rfl
@[simp] theorem State.select_pI (s : State) (q : Port) : (s.select q).pI = s.pI := rfl
@[simp] theorem State.select_pT (s : State) (q : Port) : (s.select q).pT = s.pT := rfl
@[simp] theorem State.select_pPut (s : State) (q : Port) : (s.select q).pPut = s.pPut := rfl
@[simp] theorem State.select_pStored (s : State) (q : Port) : (s.select q).pStored = s.pStored := rfl
@[simp] theorem State.select_pDropped (s : State) (q : Port) : (s.select q).pDropped = s.pDropped := rfl
@[simp] theorem State.select_pRetry (s : State) (q : Port) : (s.select q).pRetry = s.pRetry := rfl
@[simp] theorem State.select_pDesc (s : State) (q : Port) : (s.select q).pDesc = s.pDesc := rfl
@[simp] theorem State.select_pTmp (s : State) (q : Port) : (s.select q).pTmp = s.pTmp := rfl
@[simp] theorem State.select_bank (s : State) (q : Port) : (s.select q).bank = s.bank := rfl
@[simp] theorem State.select_off (s : State) (q : Port) : (s.select q).off = s.off := rfl
@[simp] theorem State.select_act (s : State) (q : Port) : (s.select q).act = s.act := rfl
@[simp] theorem State.select_rbank (s : State) (q : Port) : (s.select q).rbank = s.rbank := rfl
@[simp] theorem State.select_ract (s : State) (q : Port) : (s.select q).ract = s.ract := rfl
@[simp] theorem State.select_en (s : State) (q : Port) : (s.select q).en = s.en := rfl
@[simp] theorem State.select_feat (s : State) (q : Port) : (s.select q).feat = s.feat := rfl
@[simp] theorem State.select_nmBt (s : State) (q : Port) : (s.select q).nmBt = s.nmBt := rfl
@[simp] theorem State.select_dtBt (s : State) (q : Port) : (s.select q).dtBt = s.dtBt := rfl
@[simp] theorem State.select_nmBrp (s : State) (q : Port) : (s.select q).nmBrp = s.nmBrp := rfl
@[simp] theorem State.select_nmTseg1 (s : State) (q : Port) : (s.select q).nmTseg1 = s.nmTseg1 := rfl
@[simp] theorem State.select_nmTseg2 (s : State) (q : Port) : (s.select q).nmTseg2 = s.nmTseg2 := rfl
@[simp] theorem State.select_nmSjw (s : State) (q : Port) : (s.select q).nmSjw = s.nmSjw := rfl
@[simp] theorem State.select_dtBrp (s : State) (q : Port) : (s.select q).dtBrp = s.dtBrp := rfl
@[simp] theorem State.select_dtTseg1 (s : State) (q : Port) : (s.select q).dtTseg1 = s.dtTseg1 := rfl
@[simp] theorem State.select_dtTseg2 (s : State) (q : Port) : (s.select q).dtTseg2 = s.dtTseg2 := rfl
@[simp] theorem State.select_dtSjw (s : State) (q : Port) : (s.select q).dtSjw = s.dtSjw := rfl
@[simp] theorem State.select_txAvail (s : State) (q : Port) : (s.select q).txAvail = s.txAvail := rfl
@[simp] theorem State.select_txDropped (s : State) (q : Port) : (s.select q).txDropped = s.txDropped := rfl
@[simp] theorem State.select_desync (s : State) (q : Port) : (s.select q).desync = s.desync := rfl
@[simp] theorem State.select_halted (s : State) (q : Port) : (s.select q).halted = s.halted := rfl
@[simp] theorem State.select_haltCause (s : State) (q : Port) : (s.select q).haltCause = s.haltCause := rfl
@[simp] theorem State.select_cfg (s : State) (q : Port) : (s.select q).cfg = s.cfg := rfl
@[simp] theorem State.select_input (s : State) (q : Port) : (s.select q).input = s.input := rfl
@[simp] theorem State.select_log (s : State) (q : Port) : (s.select q).log = s.log := rfl
@[simp] theorem State.select_turns (s : State) (q : Port) : (s.select q).turns = s.turns.tail := rfl
@[simp] theorem State.select_ticks (s : State) (q : Port) : (s.select q).ticks = s.ticks + 1 := rfl
@[simp] theorem State.select_port (s : State) (q : Port) : (s.select q).port = q := rfl

@[simp] theorem State.setOff_put (s : State) (c : InChan) (b : Bank) (v : Nat) : (s.setOff c b v).put = s.put := rfl
@[simp] theorem State.setOff_get (s : State) (c : InChan) (b : Bank) (v : Nat) : (s.setOff c b v).get = s.get := rfl
@[simp] theorem State.setOff_lost (s : State) (c : InChan) (b : Bank) (v : Nat) : (s.setOff c b v).lost = s.lost := rfl
@[simp] theorem State.setOff_cCur (s : State) (c : InChan) (b : Bank) (v : Nat) : (s.setOff c b v).cCur = s.cCur := rfl
@[simp] theorem State.setOff_cLim (s : State) (c : InChan) (b : Bank) (v : Nat) : (s.setOff c b v).cLim = s.cLim := rfl
@[simp] theorem State.setOff_slotRx (s : State) (c : InChan) (b : Bank) (v : Nat) : (s.setOff c b v).slotRx = s.slotRx := rfl
@[simp] theorem State.setOff_slotTx (s : State) (c : InChan) (b : Bank) (v : Nat) : (s.setOff c b v).slotTx = s.slotTx := rfl
@[simp] theorem State.setOff_slotSt (s : State) (c : InChan) (b : Bank) (v : Nat) : (s.setOff c b v).slotSt = s.slotSt := rfl
@[simp] theorem State.setOff_pPhase (s : State) (c : InChan) (b : Bank) (v : Nat) : (s.setOff c b v).pPhase = s.pPhase := rfl
@[simp] theorem State.setOff_pRing (s : State) (c : InChan) (b : Bank) (v : Nat) : (s.setOff c b v).pRing = s.pRing := rfl
@[simp] theorem State.setOff_pN (s : State) (c : InChan) (b : Bank) (v : Nat) : (s.setOff c b v).pN = s.pN := rfl
@[simp] theorem State.setOff_pI (s : State) (c : InChan) (b : Bank) (v : Nat) : (s.setOff c b v).pI = s.pI := rfl
@[simp] theorem State.setOff_pT (s : State) (c : InChan) (b : Bank) (v : Nat) : (s.setOff c b v).pT = s.pT := rfl
@[simp] theorem State.setOff_pPut (s : State) (c : InChan) (b : Bank) (v : Nat) : (s.setOff c b v).pPut = s.pPut := rfl
@[simp] theorem State.setOff_pStored (s : State) (c : InChan) (b : Bank) (v : Nat) : (s.setOff c b v).pStored = s.pStored := rfl
@[simp] theorem State.setOff_pDropped (s : State) (c : InChan) (b : Bank) (v : Nat) : (s.setOff c b v).pDropped = s.pDropped := rfl
@[simp] theorem State.setOff_pRetry (s : State) (c : InChan) (b : Bank) (v : Nat) : (s.setOff c b v).pRetry = s.pRetry := rfl
@[simp] theorem State.setOff_pDesc (s : State) (c : InChan) (b : Bank) (v : Nat) : (s.setOff c b v).pDesc = s.pDesc := rfl
@[simp] theorem State.setOff_pTmp (s : State) (c : InChan) (b : Bank) (v : Nat) : (s.setOff c b v).pTmp = s.pTmp := rfl
@[simp] theorem State.setOff_bank (s : State) (c : InChan) (b : Bank) (v : Nat) : (s.setOff c b v).bank = s.bank := rfl
@[simp] theorem State.setOff_off (s : State) (c : InChan) (b : Bank) (v : Nat) : (s.setOff c b v).off = s.off.upd c ((s.off.sel c).upd b v) := rfl
@[simp] theorem State.setOff_act (s : State) (c : InChan) (b : Bank) (v : Nat) : (s.setOff c b v).act = s.act := rfl
@[simp] theorem State.setOff_rbank (s : State) (c : InChan) (b : Bank) (v : Nat) : (s.setOff c b v).rbank = s.rbank := rfl
@[simp] theorem State.setOff_ract (s : State) (c : InChan) (b : Bank) (v : Nat) : (s.setOff c b v).ract = s.ract := rfl
@[simp] theorem State.setOff_en (s : State) (c : InChan) (b : Bank) (v : Nat) : (s.setOff c b v).en = s.en := rfl
@[simp] theorem State.setOff_feat (s : State) (c : InChan) (b : Bank) (v : Nat) : (s.setOff c b v).feat = s.feat := rfl
@[simp] theorem State.setOff_nmBt (s : State) (c : InChan) (b : Bank) (v : Nat) : (s.setOff c b v).nmBt = s.nmBt := rfl
@[simp] theorem State.setOff_dtBt (s : State) (c : InChan) (b : Bank) (v : Nat) : (s.setOff c b v).dtBt = s.dtBt := rfl
@[simp] theorem State.setOff_nmBrp (s : State) (c : InChan) (b : Bank) (v : Nat) : (s.setOff c b v).nmBrp = s.nmBrp := rfl
@[simp] theorem State.setOff_nmTseg1 (s : State) (c : InChan) (b : Bank) (v : Nat) : (s.setOff c b v).nmTseg1 = s.nmTseg1 := rfl
@[simp] theorem State.setOff_nmTseg2 (s : State) (c : InChan) (b : Bank) (v : Nat) : (s.setOff c b v).nmTseg2 = s.nmTseg2 := rfl
@[simp] theorem State.setOff_nmSjw (s : State) (c : InChan) (b : Bank) (v : Nat) : (s.setOff c b v).nmSjw = s.nmSjw := rfl
@[simp] theorem State.setOff_dtBrp (s : State) (c : InChan) (b : Bank) (v : Nat) : (s.setOff c b v).dtBrp = s.dtBrp := rfl
@[simp] theorem State.setOff_dtTseg1 (s : State) (c : InChan) (b : Bank) (v : Nat) : (s.setOff c b v).dtTseg1 = s.dtTseg1 := rfl
@[simp] theorem State.setOff_dtTseg2 (s : State) (c : InChan) (b : Bank) (v : Nat) : (s.setOff c b v).dtTseg2 = s.dtTseg2 := rfl
@[simp] theorem State.setOff_dtSjw (s : State) (c : InChan) (b : Bank) (v : Nat) : (s.setOff c b v).dtSjw = s.dtSjw := rfl
@[simp] theorem State.setOff_txAvail (s : State) (c : InChan) (b : Bank) (v : Nat) : (s.setOff c b v).txAvail = s.txAvail := rfl
@[simp] theorem State.setOff_txDropped (s : State) (c : InChan) (b : Bank) (v : Nat) : (s.setOff c b v).txDropped = s.txDropped := rfl
@[simp] theorem State.setOff_desync (s : State) (c : InChan) (b : Bank) (v : Nat) : (s.setOff c b v).desync = s.desync := rfl
@[simp] theorem State.setOff_halted (s : State) (c : InChan) (b : Bank) (v : Nat) : (s.setOff c b v).halted = s.halted := rfl
@[simp] theorem State.setOff_haltCause (s : State) (c : InChan) (b : Bank) (v : Nat) : (s.setOff c b v).haltCause = s.haltCause := rfl
@[simp] theorem State.setOff_cfg (s : State) (c : InChan) (b : Bank) (v : Nat) : (s.setOff c b v).cfg = s.cfg := rfl
@[simp] theorem State.setOff_input (s : State) (c : InChan) (b : Bank) (v : Nat) : (s.setOff c b v).input = s.input := rfl
@[simp] theorem State.setOff_log (s : State) (c : InChan) (b : Bank) (v : Nat) : (s.setOff c b v).log = s.log := rfl
@[simp] theorem State.setOff_turns (s : State) (c : InChan) (b : Bank) (v : Nat) : (s.setOff c b v).turns = s.turns := rfl
@[simp] theorem State.setOff_ticks (s : State) (c : InChan) (b : Bank) (v : Nat) : (s.setOff c b v).ticks = s.ticks := rfl
@[simp] theorem State.setOff_port (s : State) (c : InChan) (b : Bank) (v : Nat) : (s.setOff c b v).port = s.port := rfl

@[simp] theorem State.writeBank_put (s : State) (c : InChan) (b : Bank) (k : Nat) (bs : List Byte) : (s.writeBank c b k bs).put = s.put := rfl
@[simp] theorem State.writeBank_get (s : State) (c : InChan) (b : Bank) (k : Nat) (bs : List Byte) : (s.writeBank c b k bs).get = s.get := rfl
@[simp] theorem State.writeBank_lost (s : State) (c : InChan) (b : Bank) (k : Nat) (bs : List Byte) : (s.writeBank c b k bs).lost = s.lost := rfl
@[simp] theorem State.writeBank_cCur (s : State) (c : InChan) (b : Bank) (k : Nat) (bs : List Byte) : (s.writeBank c b k bs).cCur = s.cCur := rfl
@[simp] theorem State.writeBank_cLim (s : State) (c : InChan) (b : Bank) (k : Nat) (bs : List Byte) : (s.writeBank c b k bs).cLim = s.cLim := rfl
@[simp] theorem State.writeBank_slotRx (s : State) (c : InChan) (b : Bank) (k : Nat) (bs : List Byte) : (s.writeBank c b k bs).slotRx = s.slotRx := rfl
@[simp] theorem State.writeBank_slotTx (s : State) (c : InChan) (b : Bank) (k : Nat) (bs : List Byte) : (s.writeBank c b k bs).slotTx = s.slotTx := rfl
@[simp] theorem State.writeBank_slotSt (s : State) (c : InChan) (b : Bank) (k : Nat) (bs : List Byte) : (s.writeBank c b k bs).slotSt = s.slotSt := rfl
@[simp] theorem State.writeBank_pPhase (s : State) (c : InChan) (b : Bank) (k : Nat) (bs : List Byte) : (s.writeBank c b k bs).pPhase = s.pPhase := rfl
@[simp] theorem State.writeBank_pRing (s : State) (c : InChan) (b : Bank) (k : Nat) (bs : List Byte) : (s.writeBank c b k bs).pRing = s.pRing := rfl
@[simp] theorem State.writeBank_pN (s : State) (c : InChan) (b : Bank) (k : Nat) (bs : List Byte) : (s.writeBank c b k bs).pN = s.pN := rfl
@[simp] theorem State.writeBank_pI (s : State) (c : InChan) (b : Bank) (k : Nat) (bs : List Byte) : (s.writeBank c b k bs).pI = s.pI := rfl
@[simp] theorem State.writeBank_pT (s : State) (c : InChan) (b : Bank) (k : Nat) (bs : List Byte) : (s.writeBank c b k bs).pT = s.pT := rfl
@[simp] theorem State.writeBank_pPut (s : State) (c : InChan) (b : Bank) (k : Nat) (bs : List Byte) : (s.writeBank c b k bs).pPut = s.pPut := rfl
@[simp] theorem State.writeBank_pStored (s : State) (c : InChan) (b : Bank) (k : Nat) (bs : List Byte) : (s.writeBank c b k bs).pStored = s.pStored := rfl
@[simp] theorem State.writeBank_pDropped (s : State) (c : InChan) (b : Bank) (k : Nat) (bs : List Byte) : (s.writeBank c b k bs).pDropped = s.pDropped := rfl
@[simp] theorem State.writeBank_pRetry (s : State) (c : InChan) (b : Bank) (k : Nat) (bs : List Byte) : (s.writeBank c b k bs).pRetry = s.pRetry := rfl
@[simp] theorem State.writeBank_pDesc (s : State) (c : InChan) (b : Bank) (k : Nat) (bs : List Byte) : (s.writeBank c b k bs).pDesc = s.pDesc := rfl
@[simp] theorem State.writeBank_pTmp (s : State) (c : InChan) (b : Bank) (k : Nat) (bs : List Byte) : (s.writeBank c b k bs).pTmp = s.pTmp := rfl
@[simp] theorem State.writeBank_bank (s : State) (c : InChan) (b : Bank) (k : Nat) (bs : List Byte) : (s.writeBank c b k bs).bank = s.bank.upd c ((s.bank.sel c).upd b (((s.bank.sel c).sel b).writeRun k bs)) := rfl
@[simp] theorem State.writeBank_off (s : State) (c : InChan) (b : Bank) (k : Nat) (bs : List Byte) : (s.writeBank c b k bs).off = s.off := rfl
@[simp] theorem State.writeBank_act (s : State) (c : InChan) (b : Bank) (k : Nat) (bs : List Byte) : (s.writeBank c b k bs).act = s.act := rfl
@[simp] theorem State.writeBank_rbank (s : State) (c : InChan) (b : Bank) (k : Nat) (bs : List Byte) : (s.writeBank c b k bs).rbank = s.rbank := rfl
@[simp] theorem State.writeBank_ract (s : State) (c : InChan) (b : Bank) (k : Nat) (bs : List Byte) : (s.writeBank c b k bs).ract = s.ract := rfl
@[simp] theorem State.writeBank_en (s : State) (c : InChan) (b : Bank) (k : Nat) (bs : List Byte) : (s.writeBank c b k bs).en = s.en := rfl
@[simp] theorem State.writeBank_feat (s : State) (c : InChan) (b : Bank) (k : Nat) (bs : List Byte) : (s.writeBank c b k bs).feat = s.feat := rfl
@[simp] theorem State.writeBank_nmBt (s : State) (c : InChan) (b : Bank) (k : Nat) (bs : List Byte) : (s.writeBank c b k bs).nmBt = s.nmBt := rfl
@[simp] theorem State.writeBank_dtBt (s : State) (c : InChan) (b : Bank) (k : Nat) (bs : List Byte) : (s.writeBank c b k bs).dtBt = s.dtBt := rfl
@[simp] theorem State.writeBank_nmBrp (s : State) (c : InChan) (b : Bank) (k : Nat) (bs : List Byte) : (s.writeBank c b k bs).nmBrp = s.nmBrp := rfl
@[simp] theorem State.writeBank_nmTseg1 (s : State) (c : InChan) (b : Bank) (k : Nat) (bs : List Byte) : (s.writeBank c b k bs).nmTseg1 = s.nmTseg1 := rfl
@[simp] theorem State.writeBank_nmTseg2 (s : State) (c : InChan) (b : Bank) (k : Nat) (bs : List Byte) : (s.writeBank c b k bs).nmTseg2 = s.nmTseg2 := rfl
@[simp] theorem State.writeBank_nmSjw (s : State) (c : InChan) (b : Bank) (k : Nat) (bs : List Byte) : (s.writeBank c b k bs).nmSjw = s.nmSjw := rfl
@[simp] theorem State.writeBank_dtBrp (s : State) (c : InChan) (b : Bank) (k : Nat) (bs : List Byte) : (s.writeBank c b k bs).dtBrp = s.dtBrp := rfl
@[simp] theorem State.writeBank_dtTseg1 (s : State) (c : InChan) (b : Bank) (k : Nat) (bs : List Byte) : (s.writeBank c b k bs).dtTseg1 = s.dtTseg1 := rfl
@[simp] theorem State.writeBank_dtTseg2 (s : State) (c : InChan) (b : Bank) (k : Nat) (bs : List Byte) : (s.writeBank c b k bs).dtTseg2 = s.dtTseg2 := rfl
@[simp] theorem State.writeBank_dtSjw (s : State) (c : InChan) (b : Bank) (k : Nat) (bs : List Byte) : (s.writeBank c b k bs).dtSjw = s.dtSjw := rfl
@[simp] theorem State.writeBank_txAvail (s : State) (c : InChan) (b : Bank) (k : Nat) (bs : List Byte) : (s.writeBank c b k bs).txAvail = s.txAvail := rfl
@[simp] theorem State.writeBank_txDropped (s : State) (c : InChan) (b : Bank) (k : Nat) (bs : List Byte) : (s.writeBank c b k bs).txDropped = s.txDropped := rfl
@[simp] theorem State.writeBank_desync (s : State) (c : InChan) (b : Bank) (k : Nat) (bs : List Byte) : (s.writeBank c b k bs).desync = s.desync := rfl
@[simp] theorem State.writeBank_halted (s : State) (c : InChan) (b : Bank) (k : Nat) (bs : List Byte) : (s.writeBank c b k bs).halted = s.halted := rfl
@[simp] theorem State.writeBank_haltCause (s : State) (c : InChan) (b : Bank) (k : Nat) (bs : List Byte) : (s.writeBank c b k bs).haltCause = s.haltCause := rfl
@[simp] theorem State.writeBank_cfg (s : State) (c : InChan) (b : Bank) (k : Nat) (bs : List Byte) : (s.writeBank c b k bs).cfg = s.cfg := rfl
@[simp] theorem State.writeBank_input (s : State) (c : InChan) (b : Bank) (k : Nat) (bs : List Byte) : (s.writeBank c b k bs).input = s.input := rfl
@[simp] theorem State.writeBank_log (s : State) (c : InChan) (b : Bank) (k : Nat) (bs : List Byte) : (s.writeBank c b k bs).log = s.log := rfl
@[simp] theorem State.writeBank_turns (s : State) (c : InChan) (b : Bank) (k : Nat) (bs : List Byte) : (s.writeBank c b k bs).turns = s.turns := rfl
@[simp] theorem State.writeBank_ticks (s : State) (c : InChan) (b : Bank) (k : Nat) (bs : List Byte) : (s.writeBank c b k bs).ticks = s.ticks := rfl
@[simp] theorem State.writeBank_port (s : State) (c : InChan) (b : Bank) (k : Nat) (bs : List Byte) : (s.writeBank c b k bs).port = s.port := rfl

@[simp] theorem State.writeRbank_put (s : State) (c : OutChan) (b : Bank) (bs : List Byte) : (s.writeRbank c b bs).put = s.put := rfl
@[simp] theorem State.writeRbank_get (s : State) (c : OutChan) (b : Bank) (bs : List Byte) : (s.writeRbank c b bs).get = s.get := rfl
@[simp] theorem State.writeRbank_lost (s : State) (c : OutChan) (b : Bank) (bs : List Byte) : (s.writeRbank c b bs).lost = s.lost := rfl
@[simp] theorem State.writeRbank_cCur (s : State) (c : OutChan) (b : Bank) (bs : List Byte) : (s.writeRbank c b bs).cCur = s.cCur := rfl
@[simp] theorem State.writeRbank_cLim (s : State) (c : OutChan) (b : Bank) (bs : List Byte) : (s.writeRbank c b bs).cLim = s.cLim := rfl
@[simp] theorem State.writeRbank_slotRx (s : State) (c : OutChan) (b : Bank) (bs : List Byte) : (s.writeRbank c b bs).slotRx = s.slotRx := rfl
@[simp] theorem State.writeRbank_slotTx (s : State) (c : OutChan) (b : Bank) (bs : List Byte) : (s.writeRbank c b bs).slotTx = s.slotTx := rfl
@[simp] theorem State.writeRbank_slotSt (s : State) (c : OutChan) (b : Bank) (bs : List Byte) : (s.writeRbank c b bs).slotSt = s.slotSt := rfl
@[simp] theorem State.writeRbank_pPhase (s : State) (c : OutChan) (b : Bank) (bs : List Byte) : (s.writeRbank c b bs).pPhase = s.pPhase := rfl
@[simp] theorem State.writeRbank_pRing (s : State) (c : OutChan) (b : Bank) (bs : List Byte) : (s.writeRbank c b bs).pRing = s.pRing := rfl
@[simp] theorem State.writeRbank_pN (s : State) (c : OutChan) (b : Bank) (bs : List Byte) : (s.writeRbank c b bs).pN = s.pN := rfl
@[simp] theorem State.writeRbank_pI (s : State) (c : OutChan) (b : Bank) (bs : List Byte) : (s.writeRbank c b bs).pI = s.pI := rfl
@[simp] theorem State.writeRbank_pT (s : State) (c : OutChan) (b : Bank) (bs : List Byte) : (s.writeRbank c b bs).pT = s.pT := rfl
@[simp] theorem State.writeRbank_pPut (s : State) (c : OutChan) (b : Bank) (bs : List Byte) : (s.writeRbank c b bs).pPut = s.pPut := rfl
@[simp] theorem State.writeRbank_pStored (s : State) (c : OutChan) (b : Bank) (bs : List Byte) : (s.writeRbank c b bs).pStored = s.pStored := rfl
@[simp] theorem State.writeRbank_pDropped (s : State) (c : OutChan) (b : Bank) (bs : List Byte) : (s.writeRbank c b bs).pDropped = s.pDropped := rfl
@[simp] theorem State.writeRbank_pRetry (s : State) (c : OutChan) (b : Bank) (bs : List Byte) : (s.writeRbank c b bs).pRetry = s.pRetry := rfl
@[simp] theorem State.writeRbank_pDesc (s : State) (c : OutChan) (b : Bank) (bs : List Byte) : (s.writeRbank c b bs).pDesc = s.pDesc := rfl
@[simp] theorem State.writeRbank_pTmp (s : State) (c : OutChan) (b : Bank) (bs : List Byte) : (s.writeRbank c b bs).pTmp = s.pTmp := rfl
@[simp] theorem State.writeRbank_bank (s : State) (c : OutChan) (b : Bank) (bs : List Byte) : (s.writeRbank c b bs).bank = s.bank := rfl
@[simp] theorem State.writeRbank_off (s : State) (c : OutChan) (b : Bank) (bs : List Byte) : (s.writeRbank c b bs).off = s.off := rfl
@[simp] theorem State.writeRbank_act (s : State) (c : OutChan) (b : Bank) (bs : List Byte) : (s.writeRbank c b bs).act = s.act := rfl
@[simp] theorem State.writeRbank_rbank (s : State) (c : OutChan) (b : Bank) (bs : List Byte) : (s.writeRbank c b bs).rbank = s.rbank.upd c ((s.rbank.sel c).upd b (((s.rbank.sel c).sel b).writeRun 0 bs)) := rfl
@[simp] theorem State.writeRbank_ract (s : State) (c : OutChan) (b : Bank) (bs : List Byte) : (s.writeRbank c b bs).ract = s.ract := rfl
@[simp] theorem State.writeRbank_en (s : State) (c : OutChan) (b : Bank) (bs : List Byte) : (s.writeRbank c b bs).en = s.en := rfl
@[simp] theorem State.writeRbank_feat (s : State) (c : OutChan) (b : Bank) (bs : List Byte) : (s.writeRbank c b bs).feat = s.feat := rfl
@[simp] theorem State.writeRbank_nmBt (s : State) (c : OutChan) (b : Bank) (bs : List Byte) : (s.writeRbank c b bs).nmBt = s.nmBt := rfl
@[simp] theorem State.writeRbank_dtBt (s : State) (c : OutChan) (b : Bank) (bs : List Byte) : (s.writeRbank c b bs).dtBt = s.dtBt := rfl
@[simp] theorem State.writeRbank_nmBrp (s : State) (c : OutChan) (b : Bank) (bs : List Byte) : (s.writeRbank c b bs).nmBrp = s.nmBrp := rfl
@[simp] theorem State.writeRbank_nmTseg1 (s : State) (c : OutChan) (b : Bank) (bs : List Byte) : (s.writeRbank c b bs).nmTseg1 = s.nmTseg1 := rfl
@[simp] theorem State.writeRbank_nmTseg2 (s : State) (c : OutChan) (b : Bank) (bs : List Byte) : (s.writeRbank c b bs).nmTseg2 = s.nmTseg2 := rfl
@[simp] theorem State.writeRbank_nmSjw (s : State) (c : OutChan) (b : Bank) (bs : List Byte) : (s.writeRbank c b bs).nmSjw = s.nmSjw := rfl
@[simp] theorem State.writeRbank_dtBrp (s : State) (c : OutChan) (b : Bank) (bs : List Byte) : (s.writeRbank c b bs).dtBrp = s.dtBrp := rfl
@[simp] theorem State.writeRbank_dtTseg1 (s : State) (c : OutChan) (b : Bank) (bs : List Byte) : (s.writeRbank c b bs).dtTseg1 = s.dtTseg1 := rfl
@[simp] theorem State.writeRbank_dtTseg2 (s : State) (c : OutChan) (b : Bank) (bs : List Byte) : (s.writeRbank c b bs).dtTseg2 = s.dtTseg2 := rfl
@[simp] theorem State.writeRbank_dtSjw (s : State) (c : OutChan) (b : Bank) (bs : List Byte) : (s.writeRbank c b bs).dtSjw = s.dtSjw := rfl
@[simp] theorem State.writeRbank_txAvail (s : State) (c : OutChan) (b : Bank) (bs : List Byte) : (s.writeRbank c b bs).txAvail = s.txAvail := rfl
@[simp] theorem State.writeRbank_txDropped (s : State) (c : OutChan) (b : Bank) (bs : List Byte) : (s.writeRbank c b bs).txDropped = s.txDropped := rfl
@[simp] theorem State.writeRbank_desync (s : State) (c : OutChan) (b : Bank) (bs : List Byte) : (s.writeRbank c b bs).desync = s.desync := rfl
@[simp] theorem State.writeRbank_halted (s : State) (c : OutChan) (b : Bank) (bs : List Byte) : (s.writeRbank c b bs).halted = s.halted := rfl
@[simp] theorem State.writeRbank_haltCause (s : State) (c : OutChan) (b : Bank) (bs : List Byte) : (s.writeRbank c b bs).haltCause = s.haltCause := rfl
@[simp] theorem State.writeRbank_cfg (s : State) (c : OutChan) (b : Bank) (bs : List Byte) : (s.writeRbank c b bs).cfg = s.cfg := rfl
@[simp] theorem State.writeRbank_input (s : State) (c : OutChan) (b : Bank) (bs : List Byte) : (s.writeRbank c b bs).input = s.input := rfl
@[simp] theorem State.writeRbank_log (s : State) (c : OutChan) (b : Bank) (bs : List Byte) : (s.writeRbank c b bs).log = s.log := rfl
@[simp] theorem State.writeRbank_turns (s : State) (c : OutChan) (b : Bank) (bs : List Byte) : (s.writeRbank c b bs).turns = s.turns := rfl
@[simp] theorem State.writeRbank_ticks (s : State) (c : OutChan) (b : Bank) (bs : List Byte) : (s.writeRbank c b bs).ticks = s.ticks := rfl
@[simp] theorem State.writeRbank_port (s : State) (c : OutChan) (b : Bank) (bs : List Byte) : (s.writeRbank c b bs).port = s.port := rfl

@[simp] theorem State.writeSlot_put (s : State) (r : Ring) (i : Nat) (e : Nat) :
    (s.writeSlot r i e).put = s.put := by cases r <;> rfl
@[simp] theorem State.writeSlot_get (s : State) (r : Ring) (i : Nat) (e : Nat) :
    (s.writeSlot r i e).get = s.get := by cases r <;> rfl
@[simp] theorem State.writeSlot_lost (s : State) (r : Ring) (i : Nat) (e : Nat) :
    (s.writeSlot r i e).lost = s.lost := by cases r <;> rfl
@[simp] theorem State.writeSlot_cCur (s : State) (r : Ring) (i : Nat) (e : Nat) :
    (s.writeSlot r i e).cCur = s.cCur := by cases r <;> rfl
@[simp] theorem State.writeSlot_cLim (s : State) (r : Ring) (i : Nat) (e : Nat) :
    (s.writeSlot r i e).cLim = s.cLim := by cases r <;> rfl
@[simp] theorem State.writeSlot_pPhase (s : State) (r : Ring) (i : Nat) (e : Nat) :
    (s.writeSlot r i e).pPhase = s.pPhase := by cases r <;> rfl
@[simp] theorem State.writeSlot_pRing (s : State) (r : Ring) (i : Nat) (e : Nat) :
    (s.writeSlot r i e).pRing = s.pRing := by cases r <;> rfl
@[simp] theorem State.writeSlot_pN (s : State) (r : Ring) (i : Nat) (e : Nat) :
    (s.writeSlot r i e).pN = s.pN := by cases r <;> rfl
@[simp] theorem State.writeSlot_pI (s : State) (r : Ring) (i : Nat) (e : Nat) :
    (s.writeSlot r i e).pI = s.pI := by cases r <;> rfl
@[simp] theorem State.writeSlot_pT (s : State) (r : Ring) (i : Nat) (e : Nat) :
    (s.writeSlot r i e).pT = s.pT := by cases r <;> rfl
@[simp] theorem State.writeSlot_pPut (s : State) (r : Ring) (i : Nat) (e : Nat) :
    (s.writeSlot r i e).pPut = s.pPut := by cases r <;> rfl
@[simp] theorem State.writeSlot_pStored (s : State) (r : Ring) (i : Nat) (e : Nat) :
    (s.writeSlot r i e).pStored = s.pStored := by cases r <;> rfl
@[simp] theorem State.writeSlot_pDropped (s : State) (r : Ring) (i : Nat) (e : Nat) :
    (s.writeSlot r i e).pDropped = s.pDropped := by cases r <;> rfl
@[simp] theorem State.writeSlot_pRetry (s : State) (r : Ring) (i : Nat) (e : Nat) :
    (s.writeSlot r i e).pRetry = s.pRetry := by cases r <;> rfl
@[simp] theorem State.writeSlot_pDesc (s : State) (r : Ring) (i : Nat) (e : Nat) :
    (s.writeSlot r i e).pDesc = s.pDesc := by cases r <;> rfl
@[simp] theorem State.writeSlot_pTmp (s : State) (r : Ring) (i : Nat) (e : Nat) :
    (s.writeSlot r i e).pTmp = s.pTmp := by cases r <;> rfl
@[simp] theorem State.writeSlot_bank (s : State) (r : Ring) (i : Nat) (e : Nat) :
    (s.writeSlot r i e).bank = s.bank := by cases r <;> rfl
@[simp] theorem State.writeSlot_off (s : State) (r : Ring) (i : Nat) (e : Nat) :
    (s.writeSlot r i e).off = s.off := by cases r <;> rfl
@[simp] theorem State.writeSlot_act (s : State) (r : Ring) (i : Nat) (e : Nat) :
    (s.writeSlot r i e).act = s.act := by cases r <;> rfl
@[simp] theorem State.writeSlot_rbank (s : State) (r : Ring) (i : Nat) (e : Nat) :
    (s.writeSlot r i e).rbank = s.rbank := by cases r <;> rfl
@[simp] theorem State.writeSlot_ract (s : State) (r : Ring) (i : Nat) (e : Nat) :
    (s.writeSlot r i e).ract = s.ract := by cases r <;> rfl
@[simp] theorem State.writeSlot_en (s : State) (r : Ring) (i : Nat) (e : Nat) :
    (s.writeSlot r i e).en = s.en := by cases r <;> rfl
@[simp] theorem State.writeSlot_feat (s : State) (r : Ring) (i : Nat) (e : Nat) :
    (s.writeSlot r i e).feat = s.feat := by cases r <;> rfl
@[simp] theorem State.writeSlot_nmBt (s : State) (r : Ring) (i : Nat) (e : Nat) :
    (s.writeSlot r i e).nmBt = s.nmBt := by cases r <;> rfl
@[simp] theorem State.writeSlot_dtBt (s : State) (r : Ring) (i : Nat) (e : Nat) :
    (s.writeSlot r i e).dtBt = s.dtBt := by cases r <;> rfl
@[simp] theorem State.writeSlot_nmBrp (s : State) (r : Ring) (i : Nat) (e : Nat) :
    (s.writeSlot r i e).nmBrp = s.nmBrp := by cases r <;> rfl
@[simp] theorem State.writeSlot_nmTseg1 (s : State) (r : Ring) (i : Nat) (e : Nat) :
    (s.writeSlot r i e).nmTseg1 = s.nmTseg1 := by cases r <;> rfl
@[simp] theorem State.writeSlot_nmTseg2 (s : State) (r : Ring) (i : Nat) (e : Nat) :
    (s.writeSlot r i e).nmTseg2 = s.nmTseg2 := by cases r <;> rfl
@[simp] theorem State.writeSlot_nmSjw (s : State) (r : Ring) (i : Nat) (e : Nat) :
    (s.writeSlot r i e).nmSjw = s.nmSjw := by cases r <;> rfl
@[simp] theorem State.writeSlot_dtBrp (s : State) (r : Ring) (i : Nat) (e : Nat) :
    (s.writeSlot r i e).dtBrp = s.dtBrp := by cases r <;> rfl
@[simp] theorem State.writeSlot_dtTseg1 (s : State) (r : Ring) (i : Nat) (e : Nat) :
    (s.writeSlot r i e).dtTseg1 = s.dtTseg1 := by cases r <;> rfl
@[simp] theorem State.writeSlot_dtTseg2 (s : State) (r : Ring) (i : Nat) (e : Nat) :
    (s.writeSlot r i e).dtTseg2 = s.dtTseg2 := by cases r <;> rfl
@[simp] theorem State.writeSlot_dtSjw (s : State) (r : Ring) (i : Nat) (e : Nat) :
    (s.writeSlot r i e).dtSjw = s.dtSjw := by cases r <;> rfl
@[simp] theorem State.writeSlot_txAvail (s : State) (r : Ring) (i : Nat) (e : Nat) :
    (s.writeSlot r i e).txAvail = s.txAvail := by cases r <;> rfl
@[simp] theorem State.writeSlot_txDropped (s : State) (r : Ring) (i : Nat) (e : Nat) :
    (s.writeSlot r i e).txDropped = s.txDropped := by cases r <;> rfl
@[simp] theorem State.writeSlot_desync (s : State) (r : Ring) (i : Nat) (e : Nat) :
    (s.writeSlot r i e).desync = s.desync := by cases r <;> rfl
@[simp] theorem State.writeSlot_halted (s : State) (r : Ring) (i : Nat) (e : Nat) :
    (s.writeSlot r i e).halted = s.halted := by cases r <;> rfl
@[simp] theorem State.writeSlot_haltCause (s : State) (r : Ring) (i : Nat) (e : Nat) :
    (s.writeSlot r i e).haltCause = s.haltCause := by cases r <;> rfl
@[simp] theorem State.writeSlot_cfg (s : State) (r : Ring) (i : Nat) (e : Nat) :
    (s.writeSlot r i e).cfg = s.cfg := by cases r <;> rfl
@[simp] theorem State.writeSlot_input (s : State) (r : Ring) (i : Nat) (e : Nat) :
    (s.writeSlot r i e).input = s.input := by cases r <;> rfl
@[simp] theorem State.writeSlot_log (s : State) (r : Ring) (i : Nat) (e : Nat) :
    (s.writeSlot r i e).log = s.log := by cases r <;> rfl
@[simp] theorem State.writeSlot_turns (s : State) (r : Ring) (i : Nat) (e : Nat) :
    (s.writeSlot r i e).turns = s.turns := by cases r <;> rfl
@[simp] theorem State.writeSlot_ticks (s : State) (r : Ring) (i : Nat) (e : Nat) :
    (s.writeSlot r i e).ticks = s.ticks := by cases r <;> rfl
@[simp] theorem State.writeSlot_port (s : State) (r : Ring) (i : Nat) (e : Nat) :
    (s.writeSlot r i e).port = s.port := by cases r <;> rfl

@[simp] theorem State.halt_log (s : State) (c : BitVec 4) :
    (s.halt c).log = s.log ++ [.event (.halted c)] ++ [.response s.port ⟨false, errHalted, c.toNat, 0⟩] := rfl

end Sys2Proof.Machine
end

