-- ==== Sys2Proof/Laws/Ops.lean ====
section
/-! SUPPORT. One lemma per shared operation that says once what it can do, for the proofs to cite instead of unfolding it. -/

namespace Sys2Proof.Machine

/-! Outputs and storage -/

theorem State.respond_eq_answered (s : State) (r : Response) : s.respond r = s.answered [] r := by
  simp [State.respond, State.answered]

theorem State.emit_respond_eq_answered (s : State) (e : Event) (r : Response) :
    (s.emit e).respond r = s.answered [e] r := by
  simp [State.respond, State.emit, State.answered]

theorem State.halt_eq_answered (s : State) (c : BitVec 4) :
    s.halt c = ({ s with halted := true, haltCause := c } : State).answered [.halted c]
      ⟨false, errHalted, c.toNat, 0⟩ := by
  simp [State.halt, State.respond, State.emit, State.answered]

/-- The two readings of an entry's stored form are one. -/
theorem State.mod_entryWidth (s : State) (r : Ring) (e : Nat) : e % 2 ^ s.entryWidth r = storedForm s.cfg r e := by
  cases r <;> rfl

theorem storedForm_lt (s : State) (r : Ring) (e : Nat) : storedForm s.cfg r e < 2 ^ s.entryWidth r := by
  rw [← State.mod_entryWidth]
  exact Nat.mod_lt _ (two_pow_pos _)

/-- Slot `k` after a slot write: the entry in its stored form, or what stood there. -/
theorem State.readSlotAt_writeSlot (s : State) (r : Ring) (i : Nat) (e : Nat) (r' : Ring) (k : Nat) :
    (s.writeSlot r i e).readSlotAt r' k =
      if r' = r ∧ k = s.slotIndex r i then some (storedForm s.cfg r e) else s.readSlotAt r' k := by
  cases r <;> cases r' <;>
    simp only [State.writeSlot, State.readSlotAt, Memory.read_write, storedForm, State.entryWidth, reduceCtorEq,
      false_and, true_and, if_false]

theorem State.slotIndex_writeSlot (s : State) (r : Ring) (i : Nat) (e : Nat) (r' : Ring) (j : Nat) :
    (s.writeSlot r i e).slotIndex r' j = s.slotIndex r' j := by cases r <;> rfl

/-- An entry after a slot write, by free-running index. -/
theorem State.readSlot_writeSlot (s : State) (r : Ring) (i : Nat) (e : Nat) (r' : Ring) (j : Nat) :
    (s.writeSlot r i e).readSlot r' j =
      if r' = r ∧ s.slotIndex r' j = s.slotIndex r i then some (storedForm s.cfg r e) else s.readSlot r' j := by
  unfold State.readSlot
  rw [State.slotIndex_writeSlot, State.readSlotAt_writeSlot]

/-- Slot writes only add written slots. -/
theorem State.isSome_readSlot_writeSlot {s : State} {r' : Ring} {j : Nat} (h : (s.readSlot r' j).isSome)
    (r : Ring) (i : Nat) (e : Nat) : ((s.writeSlot r i e).readSlot r' j).isSome := by
  rw [State.readSlot_writeSlot]
  split <;> simp_all

/-- A byte of a transmit bank after a bank write. -/
theorem State.readBank_writeBank (s : State) (c : InChan) (b : Bank) (a : Nat) (bs : List Byte) (c' : InChan)
    (b' : Bank) (k : Nat) :
    (s.writeBank c b a bs).readBank c' b' k =
      if c' = c ∧ b' = b ∧ a ≤ k ∧ k < a + bs.length then bs[k - a]? else s.readBank c' b' k := by
  simp only [State.readBank, State.writeBank_bank, PerIn.sel_upd]
  by_cases hc : c' = c
  · subst hc
    by_cases hb : b' = b
    · subst hb; simp
    · simp [hb]
  · simp [hc]

/-- A byte of a receive bank after a receive. -/
theorem State.readRbank_writeRbank (s : State) (c : OutChan) (b : Bank) (bs : List Byte) (c' : OutChan)
    (b' : Bank) (k : Nat) :
    (s.writeRbank c b bs).readRbank c' b' k =
      if c' = c ∧ b' = b ∧ k < bs.length then bs[k]? else s.readRbank c' b' k := by
  simp only [State.readRbank, State.writeRbank_rbank, PerOut.sel_upd]
  by_cases hc : c' = c
  · subst hc
    by_cases hb : b' = b
    · subst hb; simp
    · simp [hb]
  · simp [hc]

@[simp] theorem busBytes_length (w : Nat) (base n : Nat) : (busBytes w base n).length = n := by
  simp [busBytes]

theorem busBytes_getElem? (w : Nat) (base n k : Nat) (h : k < n) :
    (busBytes w base n)[k]? = some (BitVec.ofNat 8 (slice w (base + 8 * k) 8)) := by
  simp [busBytes, h]

/-! The order of checks -/

/-- What a command can answer (R263): HALTED, ILLEGAL, or what its own operation answers. -/
theorem State.checked_next {s : State} {i : Instr} {body : Result} {t : State}
    (h : s.checked i body = .next t) :
    s.halted = true ∧ t = s.refuseHalted ∨ s.halted = false ∧ s.legal i = false ∧ t = s.refuseIllegal
      ∨ s.halted = false ∧ s.legal i = true ∧ body = .next t := by
  unfold State.checked at h
  split at h
  · exact .inl ⟨‹_›, by simpa using h.symm⟩
  · rename_i hh
    split at h
    · exact .inr (.inr ⟨by simpa using hh, ‹_›, h⟩)
    · rename_i hl
      exact .inr (.inl ⟨by simpa using hh, by simpa using hl, by simpa using h.symm⟩)

theorem State.checked_legal {s : State} {i : Instr} (hh : s.halted = false) (hl : s.legal i = true) (body : Result) :
    s.checked i body = body := by simp [State.checked, hh, hl]

theorem State.checked_halted {s : State} (hh : s.halted = true) (i : Instr) (body : Result) :
    s.checked i body = .next s.refuseHalted := by simp [State.checked, hh]

theorem State.checked_illegal {s : State} {i : Instr} (hh : s.halted = false) (hl : s.legal i = false)
    (body : Result) : s.checked i body = .next s.refuseIllegal := by simp [State.checked, hh, hl]

/-- A guarded command waits or runs. -/
theorem State.guarded_next {s : State} {g : Bool} {body : Result} {t : State} (h : s.guarded g body = .next t) :
    g = false ∧ t = s ∨ g = true ∧ body = .next t := by
  cases g
  · exact .inl ⟨rfl, by simpa [State.guarded] using h.symm⟩
  · exact .inr ⟨rfl, by simpa [State.guarded] using h⟩

/-! Unit RB -/

theorem State.pushChk_cases (s : State) (r : Ring) :
    s.cap r < s.used r ∧ s.pushChk r = s.halt causeRing
      ∨ s.used r = s.cap r
        ∧ s.pushChk r = ({ s with lost := s.lost.upd r (satinc s.cfg.cntW (s.lost.sel r)) } : State).respond { ok := false }
      ∨ s.used r < s.cap r ∧ s.pushChk r = { s with pRing := r, pPhase := .pushWr } := by
  unfold State.pushChk State.overfull State.full
  simp only [decide_eq_true_eq]
  rcases Nat.lt_trichotomy (s.used r) (s.cap r) with h | h | h
  · exact .inr (.inr ⟨h, by
      rw [if_neg (by unfold State.used at h; omega), if_neg (by unfold State.used at h; omega)]⟩)
  · exact .inr (.inl ⟨h, by
      rw [if_neg (by unfold State.used at h; omega), if_pos (by unfold State.used at h; omega)]⟩)
  · exact .inl ⟨h, by rw [if_pos (by unfold State.used at h; omega)]⟩

theorem State.pushStep_next {s : State} {r : Ring} {e : Nat} {t : State} (h : s.pushStep r e = .next t) :
    s.pPhase = .idle ∧ t = s.pushChk r ∨ s.pPhase = .pushWr ∧ t = s.pushWr e
      ∨ s.pPhase = .pushPub ∧ t = s.pushPub := by
  unfold State.pushStep at h
  split at h <;> simp_all

theorem State.popBegin_cases (s : State) (r : Ring) :
    s.cap r < s.used r ∧ s.popBegin r = s.halt causeRing
      ∨ s.used r ≤ s.cap r ∧ s.popBegin r =
        ({ s with cLim := s.cLim.upd r (s.put.sel r), cCur := s.cCur.upd r (s.get.sel r) } : State).respond
          { ok := true, val := zext 32 (s.used r) } := by
  unfold State.popBegin State.overfull
  by_cases h : s.cap r < fill s.cfg.idxW (s.put.sel r) (s.get.sel r)
  · exact .inl ⟨h, by simp [h]⟩
  · exact .inr ⟨by unfold State.used; omega, by simp [h]⟩

theorem State.ringStat_cases (s : State) (r : Ring) :
    s.cap r < s.used r ∧ s.ringStat r = s.halt causeRing
      ∨ s.used r ≤ s.cap r ∧
        s.ringStat r = s.respond { ok := true, val := cat (s.lost.sel r) 16 (zext 16 (s.used r)) } := by
  unfold State.ringStat State.overfull
  by_cases h : s.cap r < fill s.cfg.idxW (s.put.sel r) (s.get.sel r)
  · exact .inl ⟨h, by simp [h]⟩
  · exact .inr ⟨by unfold State.used; omega, by simp [h]⟩

theorem State.popNext_next {s : State} {r : Ring} {t : State} (h : s.popNext r = .next t) :
    s.cCur.sel r = s.cLim.sel r ∧ t = s.respond { ok := false }
      ∨ s.cCur.sel r ≠ s.cLim.sel r ∧ ∃ e, s.readSlot r (s.cCur.sel r) = some e
        ∧ t = ({ s with cCur := s.cCur.upd r (addW s.cfg.idxW (s.cCur.sel r) 1) } : State).respond
          { ok := true, rdata := zext s.cfg.frameW e } := by
  unfold State.popNext at h
  split at h
  · exact .inl ⟨‹_›, by simpa using h.symm⟩
  · refine .inr ⟨‹_›, ?_⟩
    split at h
    · cases h
    · exact ⟨_, ‹_›, by simpa using h.symm⟩

/-! Unit TSR -/

theorem State.passOne_next {s t : State} (h : s.passOne = .next t) :
    (s.pI - 1).toNat < s.cfg.batchMax ∧
      t = { s with
        pI := s.pI - 1
        pTmp := s.pTmp.write (s.pI - 1).toNat s.pT
        pT := subW s.cfg.tsW s.pT (s.durUs (descriptor s.cfg s.pDesc (s.pI - 1).toNat) s.pRetry s.pRing)
        pPhase := if s.pI - 1 = 0 then .pass2 else .pass1 } := by
  unfold State.passOne at h
  dsimp only at h
  split at h
  · exact ⟨‹_›, by simpa using h.symm⟩
  · cases h

theorem State.passTwo_next {s t : State} (h : s.passTwo = .next t) :
    s.cap s.pRing < fill s.cfg.idxW s.pPut (s.get.sel s.pRing) ∧ t = s.halt causeRing
      ∨ fill s.cfg.idxW s.pPut (s.get.sel s.pRing) = s.cap s.pRing ∧
        t = ({ s with
          lost := s.lost.upd s.pRing (satinc s.cfg.cntW (s.lost.sel s.pRing))
          pDropped := s.pDropped + 1 } : State).passTwoNext
      ∨ fill s.cfg.idxW s.pPut (s.get.sel s.pRing) < s.cap s.pRing ∧ ∃ v, s.pTmp.read s.pI.toNat = some v ∧
        t = ({ s.writeSlot s.pRing s.pPut (withTime s.cfg (descriptor s.cfg s.pDesc s.pI.toNat) v) with
          pPut := addW s.cfg.idxW s.pPut 1, pStored := s.pStored + 1 } : State).passTwoNext := by
  unfold State.passTwo State.overfull State.full at h
  simp only [decide_eq_true_eq] at h
  split at h
  · exact .inl ⟨‹_›, by simpa using h.symm⟩
  · rename_i h1
    split at h
    · exact .inr (.inl ⟨‹_›, by simpa using h.symm⟩)
    · rename_i h2
      refine .inr (.inr ⟨by omega, ?_⟩)
      split at h
      · cases h
      · exact ⟨_, ‹_›, by simpa using h.symm⟩

theorem State.batchStep_next {s : State} {r : Ring} {n : BitVec 16} {k : BitVec 8} {t : State}
    (h : s.batchStep r n k = .next t) :
    s.pPhase = .idle ∧ t = s.latch r n k ∨ s.pPhase = .pass1 ∧ s.passOne = .next t
      ∨ s.pPhase = .pass2 ∧ s.passTwo = .next t ∨ s.pPhase = .batchPub ∧ t = s.batchPub := by
  unfold State.batchStep at h
  split at h <;> simp_all

/-! Unit BCH -/

theorem State.bulkWrite_cases (s : State) (c : InChan) (len : BitVec 16) :
    s.actOff c + len.toNat ≤ s.bufIn c ∧ s.bulkWrite c len =
        (s.append c len (s.wBytes len)).respond { ok := true, val := zext 32 (s.actOff c + len.toNat) }
      ∨ s.bufIn c < s.actOff c + len.toNat ∧
        s.bulkWrite c len = s.respond { ok := false, val := zext 32 (s.actOff c) } := by
  unfold State.bulkWrite State.fits
  by_cases h : s.actOff c + len.toNat ≤ s.bufIn c
  · exact .inl ⟨h, by simp [h]⟩
  · exact .inr ⟨by omega, by simp [h]⟩

theorem State.submitThen_next {s : State} {c : InChan} {k : State → State} {t : State}
    (h : s.submitThen c k = .next t) : s.padFits c = true ∧ t = k (s.doSubmit c) := by
  unfold State.submitThen at h
  split at h
  · exact ⟨‹_›, by simpa using h.symm⟩
  · cases h

theorem State.readyToSubmit_iff (s : State) (c : InChan) :
    s.readyToSubmit c = true ↔ s.actOff c ≠ 0 ∧ s.idleOff c = 0 := by
  simp [State.readyToSubmit]

theorem State.submit_next {s : State} {c : InChan} {t : State} (h : s.submit c = .next t) :
    (s.actOff c = 0 ∨ s.idleOff c ≠ 0) ∧ t = s.halt causeSubmit
      ∨ s.actOff c ≠ 0 ∧ s.idleOff c = 0 ∧ s.padFits c = true ∧ t =
        (s.doSubmit c).respond { ok := true, val := zext 32 (s.paddedLen c (s.actOff c)) } := by
  unfold State.submit at h
  split at h
  · rename_i hr
    have := (s.readyToSubmit_iff c).1 hr
    exact .inr ⟨this.1, this.2, State.submitThen_next h⟩
  · rename_i hr
    rw [State.readyToSubmit_iff] at hr
    exact .inl ⟨by by_cases h0 : s.actOff c = 0 <;> simp_all, by simpa using h.symm⟩

theorem State.complete_next {s : State} {c : InChan} {t : State} (h : s.complete c = .next t) :
    s.actOff c = 0 ∧ t = (s.setOff c (s.act.sel c).other 0).respond { ok := true }
      ∨ s.actOff c ≠ 0 ∧ (s.setOff c (s.act.sel c).other 0).padFits c = true ∧ t =
        ((s.setOff c (s.act.sel c).other 0).doSubmit c).respond
          { ok := true, val := zext 32 (s.paddedLen c (s.actOff c)) } := by
  unfold State.complete at h
  dsimp only at h
  split at h
  · exact .inl ⟨‹_›, by simpa using h.symm⟩
  · exact .inr ⟨‹_›, State.submitThen_next h⟩

/-! Unit CH -/

theorem State.orFeatures_cases (s : State) (mask : BitVec 16) :
    s.badFeatures mask ≠ 0 ∧ s.orFeatures mask =
        s.respond { ok := false, err := errFeature, val := (s.badFeatures mask).toNat }
      ∨ s.badFeatures mask = 0 ∧ s.featConflict mask = true ∧ s.orFeatures mask =
        s.respond { ok := false, err := errFeature, val := (Config.conflictBits s.feat mask).toNat }
      ∨ s.badFeatures mask = 0 ∧ s.featConflict mask = false ∧ s.orFeatures mask =
        (({ s with feat := s.feat ||| mask.toNat } : State).emit (.setFeatures (s.feat ||| mask.toNat))).respond
          { ok := true, val := zext 32 (s.feat ||| mask.toNat) } := by
  unfold State.orFeatures
  by_cases h : s.badFeatures mask = 0
  · by_cases hc : s.featConflict mask = true
    · exact .inr (.inl ⟨h, hc, by rw [if_neg (not_not.2 h), if_pos hc]⟩)
    · exact .inr (.inr ⟨h, by simpa using hc, by rw [if_neg (not_not.2 h), if_neg hc]⟩)
  · exact .inl ⟨h, if_pos h⟩

theorem State.placeReceipt_next {s : State} {m : BitVec 16} {t : State} (h : s.placeReceipt m = .next t) :
    s.fits .dataIn m = true ∧ t = (s.append .dataIn m (s.receipt m)).respond { ok := false, val := 1 }
      ∨ s.fits .dataIn m = false ∧ s.isReady .dataIn = true ∧ s.padFits .dataIn = true
        ∧ t = ((s.doSubmit .dataIn).append .dataIn m (s.receipt m)).respond { ok := false, val := 2 }
      ∨ s.fits .dataIn m = false ∧ s.isReady .dataIn = false
        ∧ t = ({ s with desync := true } : State).respond { ok := false, val := 3 } := by
  unfold State.placeReceipt at h
  split at h
  · exact .inl ⟨‹_›, by simpa using h.symm⟩
  · rename_i h1
    split at h
    · exact .inr (.inl ⟨by simpa using h1, ‹_›, State.submitThen_next h⟩)
    · rename_i h2
      exact .inr (.inr ⟨by simpa using h1, by simpa using h2, by simpa using h.symm⟩)

theorem State.transmitRequest_next {s : State} {m : BitVec 16} {t : State} (h : s.transmitRequest m = .next t) :
    s.txAvail ≠ 0 ∧ t = (({ s with txAvail := s.txAvail - 1 } : State).emit (.requestTransmit s.wFrame)).respond
        { ok := true }
      ∨ s.txAvail = 0 ∧
        ({ s with txDropped := satinc s.cfg.cntW s.txDropped, desync := s.literalDesync } : State).placeReceipt m
          = .next t := by
  unfold State.transmitRequest at h
  split at h
  · exact .inl ⟨‹_›, by simpa using h.symm⟩
  · exact .inr ⟨by simp_all, h⟩

/-! The step -/

/-- What a step can do: nothing is presented anywhere; the port in turn presents nothing; its word is no command; or
its command performs its next micro-step. -/
theorem step_next {s t : State} (h : step s = .next t) :
    s.nextPort = none ∧ t = s
      ∨ ∃ q, s.nextPort = some q ∧
        (s.presented q = none ∧ t = s.select q
          ∨ ∃ cmd, s.presented q = some cmd ∧
            ((∃ e, decodeWord cmd.word = .error e ∧ t = (s.select q).refuseWord)
              ∨ ∃ i, decodeWord cmd.word = .ok i ∧ exec i (s.select q) = .next t)) := by
  unfold step at h
  split at h
  · exact .inl ⟨‹_›, by simpa using h.symm⟩
  · rename_i q hq
    refine .inr ⟨q, hq, ?_⟩
    unfold State.perform at h
    have hp : (s.select q).presented (s.select q).port = s.presented q := rfl
    rw [hp] at h
    split at h
    · exact .inl ⟨‹_›, by simpa using h.symm⟩
    · rename_i cmd hc
      refine .inr ⟨cmd, hc, ?_⟩
      split at h
      · exact .inl ⟨_, ‹_›, by simpa using h.symm⟩
      · exact .inr ⟨_, ‹_›, h⟩

end Sys2Proof.Machine
end

