-- ==== Sys2Proof/Laws/Invariant.lean ====
section
/-! SUPPORT. The invariant and the contents of the rings read none of the model's own fields but the parameters, so a turn, a
response or an event keeps them. -/

namespace Sys2Proof.Machine

/-- The invariant after the port fields change. -/
theorem State.Inv.ports {s : State} (h : s.Inv) (input : PerPort (List Command)) (log : List Output)
    (turns : List Port) (ticks : Nat) (port : Port) :
    ({ s with input := input, log := log, turns := turns, ticks := ticks, port := port } : State).Inv :=
  ⟨h.params, h.ringFill, h.cursor, h.pushRoom, h.batchRoom, h.bankRoom, h.slotCount, h.features, h.haltPair,
    ⟨h.widths.masks, h.widths.indices, h.widths.localPut, h.widths.counters, h.widths.times,
      fun r => by cases r <;> [exact h.widths.entries .rxq; exact h.widths.entries .txrq; exact h.widths.entries .stq],
      h.widths.bitTimes, h.widths.features⟩,
    ⟨h.storage.slotRx, h.storage.slotTx, h.storage.slotSt, h.storage.scratch, h.storage.bank, h.storage.rbank⟩⟩

/-- The invariant after a port takes its turn. -/
theorem State.Inv.select {s : State} (h : s.Inv) (q : Port) : (s.select q).Inv :=
  h.ports s.input s.log s.turns.tail (s.ticks + 1) q

/-- The invariant after a response. -/
theorem State.Inv.respond {s : State} (h : s.Inv) (r : Response) : (s.respond r).Inv :=
  h.ports _ _ s.turns s.ticks s.port

/-- The invariant after an event. -/
theorem State.Inv.emit {s : State} (h : s.Inv) (e : Event) : (s.emit e).Inv :=
  h.ports s.input _ s.turns s.ticks s.port

/-- The contents of every ring after the port fields change. -/
theorem State.contents_ports (s : State) (r : Ring) (input : PerPort (List Command)) (log : List Output)
    (turns : List Port) (ticks : Nat) (port : Port) :
    ({ s with input := input, log := log, turns := turns, ticks := ticks, port := port } : State).contents r
      = s.contents r := by
  cases r <;> rfl

/-- Every offset has the width `OFF_W` (R7, R32). -/
theorem State.Inv.offset_lt {s : State} (h : s.Inv) (c : InChan) :
    s.actOff c < 2 ^ s.cfg.offW ∧ s.idleOff c < 2 ^ s.cfg.offW := by
  have h1 := (Params.bufIn_of_valid h.params c).2.2.1
  have h2 := h.bankRoom c
  unfold State.bufIn at h2
  omega

end Sys2Proof.Machine
end

