-- ==== Sys2Proof/Laws/PerInstr.lean ====
section
/-! SUPPORT. Per instruction: the four fields of its encoding (R90, R93). -/

namespace Sys2Proof.Laws.EncodedFields

/-- The encoding of `i` has its operation number, its `sel`, `zero` = 0 and its `imm16`. -/
def Statement (i : Instr) : Prop :=
  wordOp (encode i) = i.opcode ∧ wordSel (encode i) = i.selField ∧ wordZero (encode i) = 0
    ∧ wordImm (encode i) = i.immField

theorem of_assemble (i : Instr) : Statement i := by simp [Statement, encode]

theorem rbPush (r : Ring) : Statement (.rbPush r) := of_assemble _
theorem tsRxb (n : BitVec 16) : Statement (.tsRxb n) := of_assemble _
theorem tsTxb (n : BitVec 16) : Statement (.tsTxb n) := of_assemble _
theorem tsBst (code : BitVec 8) : Statement (.tsBst code) := of_assemble _
theorem tsBer (code : BitVec 8) (dir phase : Bool) : Statement (.tsBer code dir phase) := of_assemble _
theorem rbPopb (r : Ring) : Statement (.rbPopb r) := of_assemble _
theorem rbPopn (r : Ring) : Statement (.rbPopn r) := of_assemble _
theorem rbPopr (r : Ring) : Statement (.rbPopr r) := of_assemble _
theorem rbStat (r : Ring) : Statement (.rbStat r) := of_assemble _
theorem bcWr (c : InChan) (len : BitVec 16) : Statement (.bcWr c len) := of_assemble _
theorem bcRdy (c : InChan) : Statement (.bcRdy c) := of_assemble _
theorem bcSub (c : InChan) : Statement (.bcSub c) := of_assemble _
theorem bcTxc (c : InChan) : Statement (.bcTxc c) := of_assemble _
theorem bcRxc (c : OutChan) (n : BitVec 16) : Statement (.bcRxc c n) := of_assemble _
theorem chTxrq (m : BitVec 16) : Statement (.chTxrq m) := of_assemble _
theorem chEn (enable : Bool) : Statement (.chEn enable) := of_assemble _
theorem chBt (ph : BitPhase) : Statement (.chBt ph) := of_assemble _
theorem chFor (mask : BitVec 16) : Statement (.chFor mask) := of_assemble _
theorem chFcl : Statement (.chFcl) := of_assemble _
theorem chRst : Statement (.chRst) := of_assemble _
theorem chStat (regno : BitVec 16) : Statement (.chStat regno) := of_assemble _

end Sys2Proof.Laws.EncodedFields
end

