-- ==== Sys2Proof/Laws/Shared.lean ====
section
/-! SUPPORT. What the shared operations of the units do, in the terms of the statements: saturation, the soft reset, the
write and submit helpers, the latch and the publish of a batch. -/

namespace Sys2Proof.Machine

/-- All that is known of a field of an answer (R8, R13; log 31). -/
theorem shownAs_zext (n v : Nat) : shownAs n v (zext n v) := ⟨zext_lt n v, zext_of_lt⟩

theorem satinc_eq_saturated (P : Params) (c : Nat) : satinc P.cntW c = saturated P c := by
  unfold satinc saturated
  split <;> split <;> omega

theorem saturated_lt {P : Params} {c : Nat} (h : c < 2 ^ P.cntW) : saturated P c < 2 ^ P.cntW := by
  unfold saturated
  split <;> omega

/-- The time written into a descriptor (R155), in the words of the statements. -/
theorem withTime_eq_stamped (P : Params) (d t : Nat) : withTime P d t = stamped P d t := by
  unfold withTime stamped cat slice
  rw [Nat.shiftRight_eq_div_pow, Nat.shiftRight_zero, Nat.pow_add]
  ring

/-- The time of a stored frame is the one written into it, where the entry has room for the field (R26, R155). -/
theorem frameTime_storedForm_stamped {P : Params} {r : Ring} {d t : Nat} (hr : r = .rxq ∨ r = .txrq)
    (hw : timeBit + P.tsW ≤ P.frameW) (ht : t < 2 ^ P.tsW) : frameTime P (storedForm P r (stamped P d t)) = t := by
  have hs : storedForm P r (stamped P d t) = stamped P d t % 2 ^ P.frameW := by rcases hr with rfl | rfl <;> rfl
  obtain ⟨x, hx⟩ := Nat.exists_eq_add_of_le hw
  unfold frameTime slice
  rw [hs, hx, Nat.shiftRight_eq_div_pow, Nat.add_assoc, Nat.pow_add 2 timeBit, Nat.mod_mul_right_div_self,
    Nat.mod_mod_of_dvd _ (Nat.pow_dvd_pow 2 (by omega))]
  have h0 : stamped P d t = d % 2 ^ timeBit + 2 ^ timeBit * (t + 2 ^ P.tsW * (d / 2 ^ (timeBit + P.tsW))) := by
    unfold stamped
    rw [Nat.pow_add]
    ring
  rw [h0, Nat.add_mul_div_left _ _ (two_pow_pos timeBit), Nat.div_eq_of_lt (Nat.mod_lt _ (two_pow_pos timeBit)), Nat.zero_add,
    Nat.add_mul_mod_self_left, Nat.mod_eq_of_lt ht]

theorem State.softReset_eq (s : State) : s.softReset = s.afterSoftReset := rfl

/-- A byte of a transmit bank after `do_write` where the bytes fit (R192). -/
theorem State.readBank_append (s : State) (c : InChan) (len : BitVec 16) (bs : List Byte) (hb : bs.length = len.toNat)
    (c' : InChan) (b : Bank) (k : Nat) :
    (s.append c len bs).readBank c' b k =
      if c' = c ∧ b = s.act.sel c ∧ s.actOff c ≤ k ∧ k < s.actOff c + len.toNat
      then bs[k - s.actOff c]? else s.readBank c' b k := by
  rw [← hb]
  exact State.readBank_writeBank s c (s.act.sel c) (s.actOff c) bs c' b k

/-- The length handed to the transport (R195), in the words of the statements. -/
theorem State.paddedLen_eq (s : State) (c : InChan) (len : Nat) : s.paddedLen c len = paddedLength s.cfg c len := by
  unfold State.paddedLen paddedLength State.padNeeded State.bufIn
  simp only [Bool.and_eq_true, decide_eq_true_eq]

/-- A byte of a transmit bank after `do_submit` (R194): the padding bytes are 0, every other byte is as before. -/
theorem State.readBank_doSubmit (s : State) (c c' : InChan) (b : Bank) (k : Nat) :
    (s.doSubmit c).readBank c' b k =
      if c' = c ∧ b = s.act.sel c ∧ s.actOff c ≤ k ∧ k < paddedLength s.cfg c (s.actOff c) then some 0
      else s.readBank c' b k := by
  have hr : (s.doSubmit c).readBank c' b k = (s.padBank c).readBank c' b k := rfl
  rw [hr]
  unfold State.padBank paddedLength State.padNeeded State.bufIn
  simp only [Bool.and_eq_true, decide_eq_true_eq]
  by_cases h : s.cfg.mpsIn.sel c < s.cfg.bufIn.sel c ∧ s.actOff c % s.cfg.mpsIn.sel c = 0
  · rw [if_pos h, if_pos h, State.readBank_writeBank, List.length_replicate]
    by_cases hk : c' = c ∧ b = s.act.sel c ∧ s.actOff c ≤ k ∧ k < s.actOff c + s.cfg.padLen
    · rw [if_pos hk, if_pos hk, List.getElem?_replicate_of_lt (by omega)]
    · rw [if_neg hk, if_neg hk]
  · rw [if_neg h, if_neg h, if_neg (by omega)]

/-- Everything but the bytes after `do_submit` (R194). -/
theorem State.doSubmit_eq (s : State) (c : InChan) : s.doSubmit c = { s with
    bank := (s.doSubmit c).bank
    off := s.off.upd c ((s.off.sel c).upd (s.act.sel c) (s.paddedLen c (s.actOff c)))
    act := s.act.upd c (s.act.sel c).other
    log := s.log ++ [.event (.xferStart (.inn c) (s.act.sel c) (s.paddedLen c (s.actOff c)))] } := by
  unfold State.doSubmit State.padBank
  split <;> rfl

/-- Step LATCH (R152, R153): the empty batch ends, any other goes to pass 1. -/
theorem State.latch_cases (s : State) (ring : Ring) (n : BitVec 16) (retry : BitVec 8) :
    n = 0 ∧ s.latch ring n retry = ({ s with
        pRing := ring, pN := n, pDesc := s.wdata, pRetry := retry, pT := s.time, pI := n
        pPut := s.put.sel ring, pStored := 0, pDropped := 0 } : State).respond { ok := true }
      ∨ n ≠ 0 ∧ s.latch ring n retry = { s with
        pRing := ring, pN := n, pDesc := s.wdata, pRetry := retry, pT := s.time, pI := n
        pPut := s.put.sel ring, pStored := 0, pDropped := 0, pPhase := .pass1 } := by
  unfold State.latch
  by_cases h : n = 0
  · exact .inl ⟨h, if_pos h⟩
  · exact .inr ⟨h, if_neg h⟩

/-- Step PUB of a batch (R155), in one record. -/
theorem State.batchPub_eq (s : State) : s.batchPub = ({ s with
    put := s.put.upd s.pRing s.pPut, pPhase := .idle
    txAvail := if s.pRing = .txrq then s.raisedSlots s.pN else s.txAvail } : State).answered
      (if s.pPut = s.put.sel s.pRing then [] else [.wake s.pRing]) ⟨true, 0, cat s.pDropped.toNat 16 s.pStored.toNat, 0⟩ := by
  have hput : s.pPut = s.put.sel s.pRing → s.put.upd s.pRing s.pPut = s.put := fun h =>
    PerRing.ext_sel fun i => by
      rw [PerRing.sel_upd]
      split
      · rename_i e; rw [e, h]
      · rfl
  unfold State.batchPub State.publish State.returnSlots
  by_cases hp : s.pPut = s.put.sel s.pRing
  · rw [if_pos hp, if_pos hp, hput hp]
    cases hr : s.pRing <;> simp [hr, State.respond, State.answered]
  · rw [if_neg hp, if_neg hp]
    cases s.pRing <;> simp [State.respond, State.answered, State.emit, State.raisedSlots]

end Sys2Proof.Machine
end

