-- ==== Sys2Proof/Tests/Slice0.lean ====
section
/-! SUPPORT. Tests of the model against the vectors of 95_test_vectors, whose values are the spec's, and for every statement
with hypotheses a state and operands that meet them. No theorem here is a statement of its own. -/

namespace Sys2Proof.Tests

open Sys2Proof.Machine

-- One theorem after the other: the joined text then needs few threads.
set_option Elab.async false

/-! ### Helpers -/

/-- The state a micro-step answers, if it answers one. -/
def after : Result → Option State
  | .next t => some t
  | .fault _ => none
  | .refused _ => none

theorem next_of_after {o : Result} (h : (after o).isSome = true) : ∃ t, o = .next t := by
  cases o with
  | next t => exact ⟨t, rfl⟩
  | fault _ => cases h
  | refused _ => cases h

/-- The last output of a micro-step. -/
def reply (o : Result) : Option Output := (after o).bind fun t => t.log.getLast?

/-- A field of the state a micro-step answers. -/
def field {α : Type} (o : Result) (f : State → α) : Option α := (after o).map f

/-- Power-on with `FEAT_PERM` = 1, `FEAT_CONF` = 6 (the masks of V-CH4). -/
def demo : State :=
  { State.reset with cfg := { featPerm := 1, featConf := 6 }, feat := 1 }

/-- The bit times of setting A: 2 us and 0.5 us per bit. -/
def settingA : State := { demo with nmBt := 0x00020000, dtBt := 0x00008000 }

/-- A command with its buses. -/
def command (word : Word) (opa : Word := 0) (opb : Word := 0) (wdata : Nat := 0) : Command :=
  { word := word, opa := opa, opb := opb, wdata := wdata }

/-- Port `q`, in its turn, presents `c`. -/
def onPort (s : State) (q : Port) (c : Command) : State :=
  { s with port := q, turns := [q], input := s.input.upd q [c] }

/-- A descriptor with these flags and this length code. -/
def desc (xtd rtr fdf brs dlc : Nat) : Nat := xtd + 2 * rtr + 4 * fdf + 8 * brs + 256 * dlc

/-- Two `C8` descriptors on `wdata`. -/
def twoC8 : Nat := 0x0800 + 0x0800 * 2 ^ 600

/-- In-channel 1 with these offsets and active bank. -/
def withChan1 (s : State) (a : Bank) (o0 o1 : Nat) : State :=
  { s with act := ⟨.b0, a⟩, off := ⟨⟨0, 0⟩, ⟨o0, o1⟩⟩ }

/-- RXQ with these indices. -/
def withRx (s : State) (put get : Nat) : State :=
  { s with put := ⟨put, 0, 0⟩, get := ⟨get, 0, 0⟩, cCur := ⟨get, 0, 0⟩, cLim := ⟨get, 0, 0⟩ }

/-! ### Well-formedness: one ill-formed term for each check -/

theorem test_wellFormed_refuses_tsRxb : (Instr.tsRxb 65).wellFormed demo.cfg = false := by decide +kernel
theorem test_wellFormed_refuses_tsTxb : (Instr.tsTxb 65).wellFormed demo.cfg = false := by decide +kernel
theorem test_wellFormed_refuses_bcRxc : (Instr.bcRxc .cmdOut 513).wellFormed demo.cfg = false := by decide +kernel
theorem test_wellFormed_refuses_chTxrq : (Instr.chTxrq 513).wellFormed demo.cfg = false := by decide +kernel
theorem test_wellFormed_refuses_chStat : (Instr.chStat 15).wellFormed demo.cfg = false := by decide +kernel
theorem test_wellFormed_takes_bounds : (Instr.tsRxb 64).wellFormed demo.cfg = true
    ∧ (Instr.bcRxc .cmdOut 512).wellFormed demo.cfg = true ∧ (Instr.chStat 14).wellFormed demo.cfg = true := by
  decide +kernel

/-! ### Decoding: the words of V-EN1, every constructor, and of V-EN2 -/

theorem test_decode_rbPush : decodeWord 0x10200000 = .ok (.rbPush .stq) := by decide
theorem test_decode_tsRxb : decodeWord 0x11000003 = .ok (.tsRxb 3) := by decide
theorem test_decode_tsTxb : decodeWord 0x12000002 = .ok (.tsTxb 2) := by decide
theorem test_decode_tsBst : decodeWord 0x13000002 = .ok (.tsBst 2) := by decide
theorem test_decode_tsBer : decodeWord 0x14000105 = .ok (.tsBer 5 true false)
    ∧ decodeWord 0x14000305 = .ok (.tsBer 5 true true) := by decide
theorem test_decode_rbPopb : decodeWord 0x20200000 = .ok (.rbPopb .stq) := by decide
theorem test_decode_rbPopn : decodeWord 0x21200000 = .ok (.rbPopn .stq) := by decide
theorem test_decode_rbPopr : decodeWord 0x22200000 = .ok (.rbPopr .stq) := by decide
theorem test_decode_rbStat : decodeWord 0x23100000 = .ok (.rbStat .txrq) := by decide
theorem test_decode_bcWr : decodeWord 0x30100200 = .ok (.bcWr .dataIn 512) := by decide
theorem test_decode_bcRdy : decodeWord 0x31100000 = .ok (.bcRdy .dataIn) := by decide
theorem test_decode_bcSub : decodeWord 0x32100000 = .ok (.bcSub .dataIn) := by decide
theorem test_decode_bcTxc : decodeWord 0x38000000 = .ok (.bcTxc .cmdIn) := by decide
theorem test_decode_bcRxc : decodeWord 0x39300018 = .ok (.bcRxc .dataOut 24) := by decide
theorem test_decode_chTxrq : decodeWord 0x3A000008 = .ok (.chTxrq 8) := by decide
theorem test_decode_chEn : decodeWord 0x40000001 = .ok (.chEn true) ∧ decodeWord 0x40000000 = .ok (.chEn false) := by
  decide
theorem test_decode_chBt : decodeWord 0x41100000 = .ok (.chBt .data) := by decide
theorem test_decode_chFor : decodeWord 0x42000004 = .ok (.chFor 4) := by decide
theorem test_decode_chFcl : decodeWord 0x43000000 = .ok .chFcl := by decide
theorem test_decode_chRst : decodeWord 0x44000000 = .ok .chRst := by decide
theorem test_decode_chStat : decodeWord 0x45000009 = .ok (.chStat 9) := by decide

theorem test_decode_reserved_op : [0x00000000, 0xFF000000, 0x15000000, 0x24000000, 0x33000000, 0x3B000000, 0x46000000].all
    (fun w => decodeWord w == .error .reservedOp) = true := by decide
theorem test_decode_zero_field : decodeWord 0x10010000 = .error .zeroField := by decide
theorem test_decode_sel_range :
    [0x10300000, 0x23F00000, 0x11100003, 0x30200008, 0x39100018, 0x41200000].all
      (fun w => decodeWord w == .error .selRange) = true := by decide
theorem test_decode_imm_bits :
    [0x10000001, 0x13000102, 0x14000405, 0x40000002, 0x43000001].all
      (fun w => decodeWord w == .error .immBits) = true := by decide
theorem test_decode_out_of_range : [0x11000041, 0x39200201, 0x3A000201, 0x4500000F].all
    (fun w => decode demo.cfg w == .error .outOfRange) = true := by decide +kernel
theorem test_decodeTableWord : decodeTableWord 32 0x30100200 = some (.bcWr .dataIn 512)
    ∧ decodeTableWord 32 0xFF000000 = none := by decide +kernel

/-- V-EN2, the words that are illegal by their port or by `opb`: answered ILLEGAL in one step. -/
theorem test_wrong_port : [(Port.t, (0x10000000 : Word)), (.p, 0x20000000), (.u, 0x21000000), (.t, 0x38100000),
      (.p, 0x30100004), (.t, 0x3A000008), (.p, 0x45000000)].all (fun x =>
    reply (step (onPort demo x.1 (command x.2))) == some (.response x.1 ⟨false, 1, 0, 0⟩)) = true := by
  decide +kernel
theorem test_retry_above_8_bits : reply (step (onPort demo .p (command 0x12000001 0 0x100)))
    = some (.response .p ⟨false, 1, 0, 0⟩) := by decide +kernel

/-- After reset a presented command is fetched and run. -/
theorem test_withFetchWord : [0x10200000, 0x11000003, 0x38100000, 0x45000009].all
    (fun w => (after (step (State.reset.withFetchWord 32 w))).isSome) = true := by decide +kernel

/-! ### Unit RB -/

/-- V-RB2: a full ring counts the rejected push and stays as it was. -/
theorem test_rbPush_full : field (exec (.rbPush .rxq) (onPort (withRx demo 0x25 0x05) .p (command 0x10000000)))
    (fun t => (t.lost.rxq, t.put.rxq, t.pPhase)) = some (1, 0x25, .idle) := by decide +kernel

/-- V-RB4: the publish wraps the put index. -/
theorem test_rbPush_wrap : field (exec (.rbPush .rxq)
    (onPort { withRx demo 0xFF 0xFE with pPhase := .pushPub } .p (command 0x10000000)))
    (fun t => (t.put.rxq, t.log)) = some (0, [.event (.wake .rxq), .response .p ⟨true, 0, 0, 0⟩]) := by decide +kernel

/-- V-RB6: a restart discards the advance not released. -/
theorem test_rbPopb_restart : field (exec (.rbPopb .rxq)
    (onPort { withRx demo 8 5 with cCur := ⟨7, 0, 0⟩, cLim := ⟨8, 0, 0⟩ } .t (command 0x20000000)))
    (fun t => (t.cCur.rxq, t.cLim.rxq, t.log)) = some (5, 8, [.response .t ⟨true, 0, 3, 0⟩]) := by decide +kernel

/-- V-RB12: a get index ahead of put is a huge fill level. -/
theorem test_rbPopb_invariant : field (exec (.rbPopb .rxq) (onPort (withRx demo 5 6) .t (command 0x20000000)))
    (fun t => (t.halted, t.haltCause, t.log)) = some (true, 1, [.event (.halted 1), .response .t ⟨false, 2, 1, 0⟩]) := by
  decide +kernel

/-- V-RB5: index 0xFE is slot 30, and the cursor wraps with the indices. -/
theorem test_rbPopn_yields : field (exec (.rbPopn .rxq)
    (onPort { withRx demo 3 0xFE with cLim := ⟨3, 0, 0⟩, slotRx := [(30, 0xAB)] } .t (command 0x21000000)))
    (fun t => (t.cCur.rxq, t.log)) = some (0xFF, [.response .t ⟨true, 0, 0, 0xAB⟩]) := by decide +kernel

/-- V-RB9: with no sequence begun the end is reported although the ring holds entries. -/
theorem test_rbPopn_end : reply (exec (.rbPopn .rxq) (onPort (withRx demo 8 5) .t (command 0x21000000)))
    = some (.response .t ⟨false, 0, 0, 0⟩) := by decide +kernel

/-- V-RB5, the release. -/
theorem test_rbPopr_releases : field (exec (.rbPopr .rxq)
    (onPort { withRx demo 3 0xFE with cCur := ⟨3, 0, 0⟩, cLim := ⟨3, 0, 0⟩ } .t (command 0x22000000)))
    (fun t => (t.get.rxq, t.log)) = some (3, [.response .t ⟨true, 0, 5, 0⟩]) := by decide +kernel

/-- V-RB11. -/
theorem test_rbStat : reply (exec (.rbStat .stq)
    (onPort { demo with put := ⟨0, 0, 3⟩, get := ⟨0, 0, 0xFE⟩, lost := ⟨0, 0, 2⟩ } .t (command 0x23200000)))
    = some (.response .t ⟨true, 0, 0x00020005, 0⟩) := by decide +kernel

/-- V-RB11: a full ring with a saturated counter. -/
theorem test_rbStat_full : reply (exec (.rbStat .rxq)
    (onPort { withRx demo 0x20 0 with lost := ⟨0xFFFF, 0, 0⟩ } .t (command 0x23000000)))
    = some (.response .t ⟨true, 0, 0xFFFF0020, 0⟩) := by decide +kernel

/-! ### Unit TSR -/

/-- V-TS1, all rows: flags and code; bit counts; microseconds under A, B, and A on TXRQ with 3 retries. -/
theorem test_duration_table :
    [ ((0, 0, 0, 0, 0), (46, 0), (92, 46, 104)), ((0, 0, 0, 0, 8), (110, 0), (220, 110, 232)),
      ((0, 0, 0, 0, 15), (110, 0), (220, 110, 232)), ((1, 0, 0, 0, 8), (130, 0), (260, 130, 272)),
      ((0, 1, 0, 0, 8), (46, 0), (92, 46, 104)), ((1, 1, 0, 0, 0), (66, 0), (132, 66, 144)),
      ((0, 0, 0, 1, 8), (110, 0), (220, 110, 232)), ((0, 0, 1, 0, 0), (51, 0), (102, 51, 114)),
      ((0, 0, 1, 0, 9), (147, 0), (294, 147, 306)), ((0, 0, 1, 1, 0), (29, 22), (69, 31, 81)),
      ((0, 0, 1, 1, 1), (29, 30), (73, 32, 85)), ((0, 0, 1, 1, 8), (29, 86), (101, 39, 113)),
      ((0, 0, 1, 1, 10), (29, 150), (133, 47, 145)), ((0, 0, 1, 1, 11), (29, 186), (151, 52, 163)),
      ((0, 0, 1, 1, 15), (29, 538), (327, 96, 339)), ((1, 0, 1, 1, 0), (48, 22), (107, 50, 119)),
      ((1, 0, 1, 1, 15), (48, 538), (365, 115, 377)), ((1, 0, 1, 0, 15), (586, 0), (1172, 586, 1184)),
      ((0, 1, 1, 1, 8), (29, 86), (101, 39, 113)) ].all (fun row =>
        match row with
        | ((x, r, f, b, d), bits, (a, sb, a3)) =>
          let e := desc x r f b d
          descBits demo.cfg e == bits && settingA.durUs e 0 .rxq == a
            && ({ demo with nmBt := 0x10000, dtBt := 0x2000 } : State).durUs e 0 .rxq == sb
            && settingA.durUs e 3 .txrq == a3) = true := by decide +kernel

/-- V-TS7: truncation, and the threshold of R167 on both sides. -/
theorem test_duration_truncates :
    ({ demo with nmBt := 0x14000 } : State).durUs (desc 0 0 0 0 8) 0 .rxq = 137
      ∧ ({ demo with nmBt := 2260 } : State).durUs (desc 0 0 1 1 0) 0 .rxq = 1
      ∧ ({ demo with nmBt := 2259 } : State).durUs (desc 0 0 1 1 0) 0 .rxq = 0 := by decide +kernel

/-- V-TS9: the reverse walk wraps below zero. -/
theorem test_tsRxb_pass1_wraps : field (exec (.tsRxb 2)
    (onPort { settingA with pPhase := .pass1, pN := 2, pI := 2, pT := 100, pDesc := twoC8 } .p (command 0x11000002)))
    (fun t => (t.pTmp, t.pT, t.pI, t.pPhase)) = some ([(1, 100)], 0xFFFFFF88, 1, .pass1) := by decide +kernel

/-- V-TS2, a P2 step: bits 599:568 of the stored record are the reconstructed time, the rest is verbatim. -/
theorem test_tsRxb_pass2_stores : field (exec (.tsRxb 2) (onPort { settingA with
    pPhase := .pass2, pN := 2, pI := 0, pDesc := twoC8, pTmp := [(0, 9560), (1, 9780)] } .p (command 0x11000002)))
    (fun t => (t.slotRx, t.pPut, t.put.rxq)) = some ([(0, 9560 * 2 ^ 568 + 0x0800)], 1, 0) := by decide +kernel

/-- V-TS8: with 3 retries an event lasts 232 us. -/
theorem test_tsTxb_pass1 : field (exec (.tsTxb 2) (onPort { settingA with
    pPhase := .pass1, pRing := .txrq, pN := 2, pI := 2, pT := 10000, pRetry := 3, pDesc := twoC8 } .p
      (command 0x12000002 10000 3))) (fun t => t.pT) = some 9768 := by decide +kernel

/-- V-TS13 and V-TS11: the slot counter is clamped, and an unmoved put index is not published. -/
theorem test_tsTxb_publish : field (exec (.tsTxb 2) (onPort { demo with
    pPhase := .batchPub, pRing := .txrq, pN := 2, pDropped := 2, txAvail := 31 } .p (command 0x12000002)))
    (fun t => (t.txAvail, t.log)) = some (32, [.response .p ⟨true, 0, 0x00020000, 0⟩]) := by decide +kernel

/-- V-TS15. -/
theorem test_tsBst_entry : field (exec (.tsBst 2)
    (onPort { demo with pPhase := .pushWr, pRing := .stq } .p (command 0x13000002 5000)))
    (fun t => t.slotSt) = some [(0, 0x000013880200)] := by decide +kernel

/-- V-TS15: direction and phase. -/
theorem test_tsBer_entry : [(false, (0x000013880503 : Nat)), (true, 0x000013880507)].all (fun x =>
    field (exec (.tsBer 5 true x.1) (onPort { demo with pPhase := .pushWr, pRing := .stq } .p
      (command 0x14000105 5000))) (fun t => t.slotSt) == some [(0, x.2)]) = true := by decide +kernel

/-! ### Other parameters than the defaults; the values are worked out from the rules -/

/-- R7: the least index width for a capacity, the power of two, the padding, and a batch bound above 64. -/
theorem test_valid : demo.cfg.valid = true ∧ ({ demo.cfg with idxW := 6, batchMax := 65535 } : Params).valid = true
    ∧ [{ demo.cfg with idxW := 5 }, { demo.cfg with cap := ⟨32, 24, 32⟩ }, { demo.cfg with padLen := 64 },
      { demo.cfg with offW := 9 }, { demo.cfg with txSlots := 256 }, { demo.cfg with batchMax := 65536 }].all
        (fun P : Params => !P.valid) = true := by decide +kernel

/-- R122: with 6-bit indices the put index wraps at 64, with 4-bit counters the count stops at 15. -/
theorem test_widths : field (exec (.rbPush .rxq) (onPort { withRx demo 63 60 with
      pPhase := .pushPub, cfg := { demo.cfg with idxW := 6 } } .p (command 0x10000000))) (fun t => t.put.rxq) = some 0
    ∧ field (exec (.rbPush .rxq) (onPort { withRx demo 32 0 with
      lost := ⟨15, 0, 0⟩, cfg := { demo.cfg with cntW := 4 } } .p (command 0x10000000))) (fun t => t.lost.rxq) = some 15 := by
  decide +kernel

/-- R91, R97: with `BATCH_MAX` above 64, `TS.RXB #65` is legal and its newest frame is descriptor 64. -/
theorem test_descriptor_64 : field (exec (.tsRxb 65) (onPort { settingA with
      pPhase := .pass1, pN := 65, pI := 65, pT := 1000, pDesc := 0x0800 * 2 ^ (600 * 64)
      cfg := { demo.cfg with batchMax := 100 } } .p (command 0x11000041))) (fun t => (t.pTmp, t.pT))
    = some ([(64, 1000)], 780) := by decide +kernel

/-- R162, U4: an overhead function that is 5 bits at every retry count 3; U3: a duration put in place of the spec's. -/
theorem test_configured_durations :
    ({ settingA with cfg := { demo.cfg with txrOverheads := [(3, 5)] } } : State).durUs (desc 0 0 0 0 8) 3 .txrq = 230
    ∧ ({ settingA with cfg := { demo.cfg with
        durations := [(⟨desc 0 0 0 0 8, 0, .rxq, 0x20000, 0x8000⟩, 999)] } } : State).durUs (desc 0 0 0 0 8) 0 .rxq = 999 := by
  decide +kernel

/-! ### Unit BCH -/

/-- V-BC2: a write that fills the bank exactly. -/
theorem test_bcWr_fills : field (exec (.bcWr .dataIn 12) (onPort (withChan1 demo .b0 500 0) .t
    (command 0x3010000C 0 0 0x0201)))
    (fun t => (t.off.dataIn.b0, t.readBank .dataIn .b0 500, t.readBank .dataIn .b0 501, t.log))
      = some (512, some 1, some 2, [.response .t ⟨true, 0, 512, 0⟩]) := by decide +kernel

/-- V-BC3: one byte too many. -/
theorem test_bcWr_refuses : field (exec (.bcWr .dataIn 4) (onPort (withChan1 demo .b0 509 0) .t
    (command 0x30100004))) (fun t => (t.off.dataIn.b0, t.log)) = some (509, [.response .t ⟨false, 0, 509, 0⟩]) := by
  decide +kernel

/-- V-BC6: idle offset in the upper half, active in the lower. -/
theorem test_bcRdy : reply (exec (.bcRdy .dataIn) (onPort (withChan1 demo .b1 516 40) .t (command 0x31100000)))
    = some (.response .t ⟨false, 0, 0x02040028, 0⟩) := by decide +kernel

/-- R13, R193, R128: with 32-bit offsets the answer of `BC.RDY` is that of V-BC6 still; with 20-bit counters that of `RB.STAT`
has 36 bits. -/
theorem test_answer_widths :
    (let s := withChan1 demo .b1 516 40;
      reply (exec (.bcRdy .dataIn) (onPort { s with cfg := { s.cfg with offW := 32 } } .t (command 0x31100000)))
        = some (.response .t ⟨false, 0, 0x02040028, 0⟩))
    ∧ reply (exec (.rbStat .rxq) (onPort { withRx demo 5 0 with
        lost := ⟨0xABCDE, 0, 0⟩, cfg := { demo.cfg with cntW := 20 } } .t (command 0x23000000)))
      = some (.response .t ⟨true, 0, 0xABCDE0005, 0⟩) := by decide +kernel

/-- V-BC7, all rows: the length handed over. -/
theorem test_bcSub_padding :
    [(512, 516), (500, 500), (64, 68), (128, 132), (1, 1), (63, 63), (65, 65), (448, 452)].all (fun x =>
      field (exec (.bcSub .dataIn) (onPort (withChan1 demo .b0 x.1 0) .t (command 0x32100000)))
        (fun t => (t.off.dataIn.b0, t.act.dataIn, t.readBank .dataIn .b0 x.1 == some 0, t.log))
        == some (x.2, .b1, x.1 != x.2,
          [.event (.xferStart (.inn .dataIn) .b0 x.2),
            .response .t ⟨true, 0, x.2, 0⟩])) = true := by decide +kernel

/-- V-BC8 (ii): submitting while the other bank is in flight halts and changes nothing else. -/
theorem test_bcSub_halts : field (exec (.bcSub .dataIn) (onPort (withChan1 demo .b1 516 64) .t (command 0x32100000)))
    (fun t => (t.halted, t.haltCause, t.off, t.act)) = some (true, 2, ⟨⟨0, 0⟩, ⟨516, 64⟩⟩, ⟨.b0, .b1⟩) := by
  decide +kernel

/-- V-BC10: completion with automatic resubmit. -/
theorem test_bcTxc_resubmits : field (exec (.bcTxc .dataIn) (onPort (withChan1 demo .b1 500 128) .u
    (command 0x38100000))) (fun t => (t.off.dataIn, t.act.dataIn, t.readBank .dataIn .b1 131, t.log))
      = some (⟨0, 132⟩, .b0, some 0,
        [.event (.xferStart (.inn .dataIn) .b1 132), .response .u ⟨true, 0, 132, 0⟩]) := by decide +kernel

/-- V-BC9: completion without resubmit. -/
theorem test_bcTxc_empties : field (exec (.bcTxc .dataIn) (onPort (withChan1 demo .b1 500 0) .u
    (command 0x38100000))) (fun t => (t.off.dataIn, t.act.dataIn, t.log))
      = some (⟨0, 0⟩, .b1, [.response .u ⟨true, 0, 0, 0⟩]) := by decide +kernel

/-- V-BC12. -/
theorem test_bcRxc_alternates : field (exec (.bcRxc .dataOut 24) (onPort demo .u (command 0x39300018 0 0 0xAA)))
    (fun t => (t.readRbank .dataOut .b0 0, t.readRbank .dataOut .b0 24, t.ract.dataOut, t.log))
      = some (some 0xAA, none, .b1, [.event (.rxDeliver .dataOut .b0 24), .event (.xferStart (.out .dataOut) .b1 512),
          .response .u ⟨true, 0, 24, 0⟩]) := by decide +kernel

/-! ### Unit CH -/

/-- V-CH10, the variant that pads: the receipt is placed after a submit. -/
theorem test_chTxrq_submits : field (exec (.chTxrq 8) (onPort { withChan1 demo .b0 512 0 with txAvail := 0 } .u
    (command 0x3A000008 0 0 (0x77 * 2 ^ 600))))
    (fun t => (t.off.dataIn, t.readBank .dataIn .b1 0, t.txDropped, t.log.getLast?))
      = some (⟨516, 8⟩, some 0x77, 1, some (.response .u ⟨false, 0, 2, 0⟩)) := by decide +kernel

/-- V-CH11: the receipt is lost and `desync` is set. -/
theorem test_chTxrq_desync : field (exec (.chTxrq 8) (onPort { withChan1 demo .b1 508 510 with
    txAvail := 0, txDropped := 1 } .u (command 0x3A000008)))
    (fun t => (t.desync, t.txDropped, t.off.dataIn, t.log)) = some (true, 2, ⟨508, 510⟩, [.response .u ⟨false, 0, 3, 0⟩]) := by
  decide +kernel

/-- V-CH1. -/
theorem test_chEn_enables : field (exec (.chEn true) (onPort demo .t (command 0x40000001)))
    (fun t => (t.en, t.log)) = some (true, [.event (.enable true), .response .t ⟨true, 0, 1, 0⟩]) := by decide +kernel

/-- V-CH2: disabling resets. -/
theorem test_chEn_disables : field (exec (.chEn false) (onPort { withChan1 (withRx demo 9 4) .b1 0 40 with
    en := true, lost := ⟨7, 0, 0⟩, feat := 5, txAvail := 3, nmBt := 0x20000 } .t (command 0x40000000)))
    (fun t => ((t.en, t.get.rxq, t.lost.rxq, t.feat), t.txAvail, t.off.dataIn, t.nmBt))
      = some ((false, 9, 0, 1), 32, ⟨0, 0⟩, 0x20000) := by decide +kernel

/-- V-CH3. -/
theorem test_chBt : field (exec (.chBt .nominal) (onPort demo .t (command 0x41000000 0x20000 0 0x00010002000D000A)))
    (fun t => (t.nmBt, t.dtBt, t.log)) = some (0x20000, 0,
      [.event (.setBitTiming .nominal 10 13 2 1), .response .t ⟨true, 0, 0, 0⟩]) := by decide +kernel

/-- V-CH4: one unsupported bit refuses the whole request. -/
theorem test_chFor_refuses : field (exec (.chFor 0x000C) (onPort demo .u (command 0x4200000C)))
    (fun t => (t.feat, t.log)) = some (1, [.response .u ⟨false, 3, 8, 0⟩]) := by decide +kernel

/-- V-CH4. -/
theorem test_chFor_accepts : field (exec (.chFor 4) (onPort demo .u (command 0x42000004)))
    (fun t => (t.feat, t.log)) = some (5, [.event (.setFeatures 5), .response .u ⟨true, 0, 5, 0⟩]) := by decide +kernel

/-- V-CH5. -/
theorem test_chFcl : field (exec .chFcl (onPort { demo with feat := 5 } .u (command 0x43000000)))
    (fun t => (t.feat, t.log)) = some (1, [.event (.setFeatures 1), .response .u ⟨true, 0, 1, 0⟩]) := by decide +kernel

/-- V-CH6: the rings are emptied, the put indices stay. -/
theorem test_chRst : field (exec .chRst (onPort { demo with
    put := ⟨0x47, 0x12, 0x03⟩, get := ⟨0x40, 0x12, 0x01⟩, cCur := ⟨0x42, 0, 0⟩, desync := true, ract := ⟨.b0, .b1⟩ } .u
      (command 0x44000000))) (fun t => (t.put, t.get, t.cCur, t.desync, t.ract))
    = some (⟨0x47, 0x12, 0x03⟩, ⟨0x47, 0x12, 0x03⟩, ⟨0x47, 0x12, 0x03⟩, false, ⟨.b0, .b0⟩) := by decide +kernel

/-- V-CH7: the register numbers. -/
theorem test_chStat : [(1, 5), (2, 0x20000), (4, 30), (5, 7), (6, 0), (7, 2), (8, 5), (9, 1), (11, 0x000D000A),
      (12, 0x00010002), (13, 0x00050002)].all (fun x =>
    reply (exec (.chStat x.1) (onPort { settingA with
      feat := 5, txAvail := 30, lost := ⟨7, 0, 2⟩, txDropped := 5, desync := true, nmBrp := 10, nmTseg1 := 13
      nmTseg2 := 2, nmSjw := 1, dtBrp := 2, dtTseg1 := 5 } .t (command 0x45000000)))
      == some (.response .t ⟨true, 0, x.2, 0⟩)) = true := by decide +kernel

/-- V-HR2: a batch caught by a halt is answered HALTED and stays frozen. -/
theorem test_halted_batch : field (step (onPort { demo with
    halted := true, haltCause := 2, pPhase := .pass1, pN := 3, pI := 2 } .p (command 0x11000003)))
    (fun t => (t.pPhase, t.put.rxq, t.log)) = some (.pass1, 0, [.response .p ⟨false, 2, 2, 0⟩]) := by decide +kernel

/-! ### Witnesses: for every statement with hypotheses, a state and operands that meet them, clause by clause -/

/-- Every ring holds `CAP` entries or `CAP` + 1, at an index that wraps. -/
def fullRing : State := { demo with put := ⟨0x10, 0x10, 0x10⟩, get := ⟨0xF0, 0xF0, 0xF0⟩ }
def overfullRing : State := { demo with put := ⟨0x10, 0x10, 0x10⟩, get := ⟨0xEF, 0xEF, 0xEF⟩ }
def nearlyFullRing : State := { demo with
  put := ⟨0x10, 0x10, 0x10⟩, get := ⟨0xF1, 0xF1, 0xF1⟩, cCur := ⟨0xF1, 0xF1, 0xF1⟩, cLim := ⟨0x10, 0x10, 0x10⟩ }

/-- A halted block, a word on port P. -/
def haltedBlock : State := onPort { demo with halted := true, haltCause := 2 } .p (command 0)

/-- The batch `TS.RXB #2` in pass 2: one entry in the ring, one frame stored and not yet published, one to go. -/
def inPassTwo : State := onPort { settingA with
  put := ⟨0, 0, 0⟩, get := ⟨0xFF, 0, 0⟩, cCur := ⟨0xFF, 0, 0⟩, cLim := ⟨0xFF, 0, 0⟩
  slotRx := [(0, 2), (31, 1)], pPhase := .pass2, pN := 2, pI := 1, pPut := 1, pStored := 1
  pDesc := twoC8, pTmp := [(0, 780), (1, 1000)], off := ⟨⟨0, 0⟩, ⟨516, 512⟩⟩, act := ⟨.b0, .b1⟩ } .p
    (command 0x11000002 1000 0 twoC8)

/-- The single push `RB.PUSH 2` before its publish. -/
def inPushPub : State := onPort { demo with pPhase := .pushPub, pRing := .stq, slotSt := [(0, 7)] } .p
  (command 0x10200000 0 0 7)

/-- Every cell of a storage space holds `w` bits. -/
def cellsFit (m : Memory Nat) (w : Nat) : Bool := m.all fun x => decide (x.2 < 2 ^ w)

theorem read_lt_of_cellsFit {m : Memory Nat} {w k v : Nat} (h : cellsFit m w = true) (hr : m.read k = some v) :
    v < 2 ^ w := by
  have := List.all_eq_true.1 h _ (Memory.mem_of_read hr)
  simpa using this

/-- The widths, evaluated. -/
def widthCheck (s : State) : Bool :=
  decide ((s.cfg.featPerm < 2 ^ s.cfg.featW ∧ s.cfg.featConf < 2 ^ s.cfg.featW) ∧ s.pPut < 2 ^ s.cfg.idxW
      ∧ s.txDropped < 2 ^ s.cfg.cntW ∧ s.pT < 2 ^ s.cfg.tsW
      ∧ (s.nmBt < 2 ^ s.cfg.btW ∧ s.dtBt < 2 ^ s.cfg.btW) ∧ s.feat < 2 ^ s.cfg.featW)
    && [Ring.rxq, .txrq, .stq].all (fun r => decide ((s.put.sel r < 2 ^ s.cfg.idxW ∧ s.get.sel r < 2 ^ s.cfg.idxW
      ∧ s.cCur.sel r < 2 ^ s.cfg.idxW ∧ s.cLim.sel r < 2 ^ s.cfg.idxW) ∧ s.lost.sel r < 2 ^ s.cfg.cntW))
    && (cellsFit s.pTmp s.cfg.tsW && cellsFit s.slotRx s.cfg.frameW && cellsFit s.slotTx s.cfg.frameW
      && cellsFit s.slotSt s.cfg.statW)

theorem widths_of_check {s : State} (h : widthCheck s = true) : s.WidthsOk := by
  simp only [widthCheck, Bool.and_eq_true, decide_eq_true_eq, List.all_cons, List.all_nil, Bool.and_true] at h
  obtain ⟨⟨⟨hm, hp, hd, ht, hb, hf⟩, hr0, hr1, hr2⟩, ⟨⟨htmp, hrx⟩, htx⟩, hst⟩ := h
  exact {
    masks := hm
    indices := fun r => by cases r <;> [exact hr0.1; exact hr1.1; exact hr2.1]
    localPut := hp
    counters := ⟨fun r => by cases r <;> [exact hr0.2; exact hr1.2; exact hr2.2], hd⟩
    times := ⟨ht, fun _ _ => read_lt_of_cellsFit htmp⟩
    entries := fun r _ _ => by
      cases r <;> [exact read_lt_of_cellsFit hrx; exact read_lt_of_cellsFit htx; exact read_lt_of_cellsFit hst]
    bitTimes := hb
    features := hf }

/-- The invariant, evaluated. -/
def invCheck (s : State) : Bool :=
  s.cfg.valid
    && [Ring.rxq, .txrq, .stq].all (fun r => decide (s.used r ≤ s.cap r
      ∧ fill s.cfg.idxW (s.cCur.sel r) (s.get.sel r) ≤ fill s.cfg.idxW (s.cLim.sel r) (s.get.sel r)
      ∧ fill s.cfg.idxW (s.cLim.sel r) (s.get.sel r) ≤ s.used r))
    && decide (s.pPhase = .pushWr ∨ s.pPhase = .pushPub → s.used s.pRing < s.cap s.pRing)
    && decide (s.pPhase = .pass1 ∨ s.pPhase = .pass2 ∨ s.pPhase = .batchPub →
      fill s.cfg.idxW s.pPut (s.get.sel s.pRing) ≤ s.cap s.pRing ∧ s.used s.pRing ≤ fill s.cfg.idxW s.pPut (s.get.sel s.pRing))
    && [InChan.cmdIn, .dataIn].all (fun c => decide (s.actOff c ≤ s.bufIn c
      ∧ s.idleOff c ≤ s.bufIn c + s.cfg.padLen)
      && [Bank.b0, .b1].all fun b => decide (((s.bank.sel c).sel b).Wf
        ∧ ((s.bank.sel c).sel b).Within (s.bufIn c + s.cfg.padLen)))
    && [OutChan.cmdOut, .dataOut].all (fun c => [Bank.b0, .b1].all fun b => decide (((s.rbank.sel c).sel b).Wf
        ∧ ((s.rbank.sel c).sel b).Within (s.bufOut c)))
    && decide (s.txAvail.toNat ≤ s.cfg.txSlots)
    && decide (s.cfg.featPerm &&& s.feat = s.cfg.featPerm ∧ s.feat &&& (s.cfg.featPerm ||| s.cfg.featConf) = s.feat)
    && decide (s.halted = false ∧ s.haltCause = 0 ∨ s.halted = true ∧ (s.haltCause = 1 ∨ s.haltCause = 2))
    && decide ((s.slotRx.Wf ∧ s.slotRx.Within (s.cap .rxq)) ∧ (s.slotTx.Wf ∧ s.slotTx.Within (s.cap .txrq))
      ∧ (s.slotSt.Wf ∧ s.slotSt.Within (s.cap .stq)) ∧ s.pTmp.Wf ∧ s.pTmp.Within s.cfg.batchMax)
    && widthCheck s

theorem inv_of_check {s : State} (h : invCheck s = true) : s.Inv := by
  simp only [invCheck, Bool.and_eq_true, decide_eq_true_eq, List.all_cons, List.all_nil, Bool.and_true] at h
  obtain ⟨⟨⟨⟨⟨⟨⟨⟨⟨⟨hp, hr0, hr1, hr2⟩, hpush⟩, hbatch⟩, hc0, hc1⟩, ho0, ho1⟩, hslots⟩, hfeat⟩, hhalt⟩, hst⟩, hw⟩ := h
  exact {
    params := hp
    ringFill := fun r => by cases r <;> [exact hr0.1; exact hr1.1; exact hr2.1]
    cursor := fun r => by cases r <;> [exact hr0.2; exact hr1.2; exact hr2.2]
    pushRoom := hpush
    batchRoom := hbatch
    bankRoom := fun c => by cases c <;> [exact hc0.1; exact hc1.1]
    slotCount := hslots
    features := hfeat
    haltPair := hhalt
    widths := widths_of_check hw
    storage := {
      slotRx := hst.1
      slotTx := hst.2.1
      slotSt := hst.2.2.1
      scratch := hst.2.2.2
      bank := fun c b => by
        cases c <;> cases b <;> [exact hc0.2.1; exact hc0.2.2; exact hc1.2.1; exact hc1.2.2]
      rbank := fun c b => by cases c <;> cases b <;> [exact ho0.1; exact ho0.2; exact ho1.1; exact ho1.2] } }

theorem witness_inv_rings : nearlyFullRing.Inv := inv_of_check (by decide +kernel)

theorem witness_inv_batch : inPassTwo.Inv := inv_of_check (by decide +kernel)

theorem witness_inv_push : inPushPub.Inv := inv_of_check (by decide +kernel)

theorem witness_live_batch : inPassTwo.Live where
  written := fun r => by cases r <;> decide +kernel
  pushWritten := by decide +kernel
  batchWritten := fun _ => by decide +kernel
  passOne := by intro h; exact absurd h (by decide +kernel)
  passTwo := fun _ => ⟨by decide +kernel, by decide +kernel, by decide +kernel⟩
  push := fun _ h => absurd h (by unfold State.inPush; decide +kernel)
  batch := fun _ _ => ⟨_, .tsRxb 2, rfl, by decide +kernel, rfl, by decide +kernel⟩

theorem witness_live_push : inPushPub.Live where
  written := fun r => by cases r <;> decide +kernel
  pushWritten := by decide +kernel
  batchWritten := fun h => absurd h (by decide +kernel)
  passOne := by intro h; exact absurd h (by decide +kernel)
  passTwo := by intro h; exact absurd h (by decide +kernel)
  push := fun _ _ => ⟨_, .rbPush .stq, rfl, by decide +kernel, rfl, by decide +kernel⟩
  batch := fun _ h => absurd h (by unfold State.inBatch; decide +kernel)

/-- The two states above answer a next state, in the step and in the command's own meaning. -/
theorem witness_InvariantKept_RunsNeverStop : (∃ t, step inPassTwo = .next t) ∧ ∃ t, step inPushPub = .next t :=
  ⟨next_of_after (by decide +kernel), next_of_after (by decide +kernel)⟩

theorem witness_EncodeOfDecode : decodeWord 0x3010FFFF = .ok (.bcWr .dataIn 0xFFFF) := by decide

theorem witness_ReservedNumbersRefused : ∀ i : Instr, i.opcode ≠ wordOp 0xFF000000 := by
  intro i
  cases i <;> simp only [Instr.opcode] <;> decide

theorem witness_StepRunsDecodedCommand : inPassTwo.nextPort = some .p
    ∧ inPassTwo.presented .p = some (command 0x11000002 1000 0 twoC8) ∧ decodeWord 0x11000002 = .ok (.tsRxb 2)
    ∧ demo.nextPort = none := by decide +kernel

/-- Both clauses at the bounds of `TS.RXB`, `TS.TXB`, `BC.RXC` and `CH.STAT`. -/
theorem witness_IllegalCommandsAnswered : (onPort demo .p (command 0x11000041)).nextPort = some .p
    ∧ (onPort demo .p (command 0x11000041)).presented .p = some (command 0x11000041) ∧ demo.halted = false
    ∧ commandLegal demo.cfg .p (command 0x11000041) = false ∧ commandLegal demo.cfg .p (command 0x11000040) = true
    ∧ commandLegal demo.cfg .p (command 0x12000001 0 256) = false
    ∧ commandLegal demo.cfg .p (command 0x12000001 0 255) = true
    ∧ commandLegal demo.cfg .u (command 0x39200201) = false ∧ commandLegal demo.cfg .u (command 0x39200200) = true
    ∧ commandLegal demo.cfg .t (command 0x4500000F) = false ∧ commandLegal demo.cfg .t (command 0x4500000E) = true := by
  decide +kernel

theorem witness_IllegalMeaningsChangeNothing :
    demo.halted = false ∧ (onPort demo .p (command 0x11000041)).legal (.tsRxb 65) = false
      ∧ (onPort demo .t (command 0x10000000)).legal (.rbPush .rxq) = false := by decide +kernel

/-- For `HaltedRefusesEverything` and `HaltIsPermanent`. -/
theorem witness_halted : haltedBlock.nextPort = some .p ∧ haltedBlock.presented .p = some (command 0)
    ∧ haltedBlock.halted = true := by decide +kernel

/-- For `OneResponsePerCommand`, `ProducerKeepsContents`, `BankInFlightUntouched`, `PortPWritesOnlyItsState` (port P, a bank
in flight), `PortsTUWriteOnlyTheirState` (T and U) and `ChannelsIndependent`; for `ParametersNeverChange` see
`witness_InvariantKept_RunsNeverStop`, for `ProducerNeverWaits` the state `inPassTwo`. -/
theorem witness_next : (∃ t, exec (.tsRxb 2) inPassTwo = .next t)
    ∧ (∃ t, exec (.bcSub .dataIn) (onPort (withChan1 demo .b1 0 8) .t (command 0x32100000)) = .next t)
    ∧ (∃ t, exec (.bcTxc .dataIn) (onPort (withChan1 demo .b1 8 8) .u (command 0x38100000)) = .next t)
    ∧ ∃ t, exec (.bcRxc .dataOut 1) (onPort demo .u (command 0x39300001)) = .next t :=
  ⟨next_of_after (by decide +kernel), next_of_after (by decide +kernel), next_of_after (by decide +kernel),
    next_of_after (by decide +kernel)⟩

theorem witness_BankInFlightUntouched : inPassTwo.inFlight .dataIn = true := by decide +kernel

/-- For `RbPushMicroSteps`, `TsBstPushesStatus` and `TsBerPushesError`: STQ above, at and below capacity, and the two later
phases. -/
theorem witness_push_clauses :
    [(overfullRing, 33), (fullRing, 32), (nearlyFullRing, 31)].all (fun x =>
      let s := onPort x.1 .p (command 0x10200000)
      !s.halted && s.port == .p && s.presented .p == some (command 0x10200000) && s.pPhase == .idle
        && s.used .stq == x.2 && s.cap .stq == 32) = true
    ∧ [Phase.pushWr, .pushPub].all (fun phase =>
      let s : State := { inPushPub with pPhase := phase }
      !s.halted && s.port == .p && s.presented .p == some (command 0x10200000 0 0 7) && s.pPhase == phase
        && s.pRing == .stq) = true := by decide +kernel

/-- For `RbPopbBegins`, `RbPopnYields`, `RbPoprReleases` and `RbStatReports`: above and at capacity, with the cursor at its
bound, and with an entry to yield. -/
theorem witness_consumer_clauses :
    [(overfullRing, 33), (fullRing, 32)].all (fun x =>
      let s := onPort x.1 .t (command 0x20000000)
      !s.halted && s.port == .t && s.used .rxq == x.2 && s.cap .rxq == 32 && s.cCur.rxq == s.cLim.rxq) = true
    ∧ (let s := onPort { nearlyFullRing with slotRx := [(17, 5)] } .t (command 0x21000000);
      !s.halted && s.port == .t && s.cCur.rxq != s.cLim.rxq && s.readSlot .rxq s.cCur.rxq == some 5) = true := by
  decide +kernel

theorem witness_PushAppendsToContents :
    let s : State := { nearlyFullRing with input := ⟨[command 0x10200000], [], []⟩, turns := [.p, .p, .p] }
    s.Inv ∧ s.halted = false ∧ s.pPhase = .idle ∧ s.input.sel .p = command 0x10200000 :: []
      ∧ decodeWord (command 0x10200000).word = .ok (.rbPush .stq) ∧ s.turns = [.p, .p, .p] ++ []
      ∧ s.used .stq < s.cap .stq :=
  ⟨witness_inv_rings.ports _ nearlyFullRing.log _ nearlyFullRing.ticks nearlyFullRing.port, by decide +kernel⟩

/-- The contents' first entry is at the cursor; the ring is one short of full. -/
theorem witness_ConsumerReadsInOrder :
    let s : State := { inPassTwo with cLim := ⟨0, 0, 0⟩, port := .t }
    s.halted = false ∧ s.cCur.rxq ≠ s.cLim.rxq ∧ (s.contents .rxq)[fill s.cfg.idxW s.cCur.rxq s.get.rxq]? = some (some 1) := by
  decide +kernel

theorem witness_ConsumerReadsInOrder_inv : ({ inPassTwo with cLim := ⟨0, 0, 0⟩, port := .t } : State).Inv :=
  inv_of_check (by decide +kernel)

theorem witness_ConsecutiveIndicesDistinctSlots : demo.cfg.valid = true ∧ (1 : Nat) < demo.cap .rxq
    ∧ (31 : Nat) < demo.cap .stq ∧ demo.cap .stq < 2 ^ demo.cfg.idxW := by decide +kernel

/-- The empty batch and the largest, with the largest retry count. -/
theorem witness_BatchLatches :
    let s := onPort demo .p (command 0x12000040 0 255)
    s.halted = false ∧ s.port = .p ∧ s.presented .p = some (command 0x12000040 0 255) ∧ s.pPhase = .idle
      ∧ (0 : BitVec 16).toNat ≤ s.cfg.batchMax ∧ (64 : BitVec 16).toNat ≤ s.cfg.batchMax ∧ (64 : BitVec 16) ≠ 0
      ∧ (command 0x12000040 0 255).opb.toNat < 2 ^ 8 := by decide +kernel

/-- Pass 1 at its first frame of 64 and at its last. -/
theorem witness_BatchPassOne : [(64 : BitVec 16), 1].all (fun i =>
    let s : State := { inPassTwo with pPhase := .pass1, pI := i }
    !s.halted && s.legal (.tsRxb 2) && isBatch (.tsRxb 2) && s.pPhase == .pass1 && decide (1 ≤ s.pI.toNat)
      && decide (s.pI.toNat ≤ s.cfg.batchMax)) = true := by decide +kernel

/-- Pass 2 with the local put index above, at and below capacity, and the publish. -/
theorem witness_BatchPassTwoAndPublish :
    [((33 : Nat), Phase.pass2), (32, .pass2), (31, .pass2), (2, .batchPub)].all (fun x =>
      let s : State := { inPassTwo with pPut := (inPassTwo.get.rxq + x.1) % 256, pPhase := x.2 }
      !s.halted && s.legal (.tsRxb 2) && isBatch (.tsRxb 2) && s.pPhase == x.2 && s.pRing == .rxq
        && fill s.cfg.idxW s.pPut s.get.rxq == x.1 && s.cap .rxq == 32 && s.pTmp.read s.pI.toNat == some 1000) = true := by
  decide +kernel

theorem witness_ClassicFrameIs110Bits : demo.cfg.ifsBits = 2
    ∧ ({ demo.cfg with ifsBits := 3 } : Params).ifsBits = 3 := by decide +kernel

theorem witness_DurationInMicroseconds :
    let d := desc 0 0 1 1 10
    settingA.cfg.durations.lookup ⟨d, 3, .txrq, settingA.nmBt, settingA.dtBt⟩ = none
      ∧ settingA.cfg.txrOverheads.lookup 3 = none
      ∧ frameBits settingA.cfg (d.testBit 0) (d.testBit 1) (d.testBit 2) (d.testBit 3) (BitVec.ofNat 4 (d / 2 ^ 8))
        = (29, 150) := by decide +kernel

theorem witness_DurationsPositive :
    let s : State := { demo with nmBt := 2260 }
    s.cfg.ifsBits = 2 ∧ s.cfg.fdSbcBits = 0 ∧ s.cfg.txrRetryMul = 2 ∧ s.cfg.frac = 16 ∧ s.cfg.durations = []
      ∧ s.cfg.txrOverheads = [] ∧ 2260 ≤ s.nmBt ∧ s.nmBt < 2 ^ 32 ∧ s.dtBt < 2 ^ 32 := by decide +kernel

/-- For `BatchRunsToPublish` and `BatchTimesMonotone`: a batch of two, both stored, the poll timestamp just the sum of
the newer frame's duration. -/
def beforeBatch : State := { settingA with
  input := ⟨[command 0x11000002 220 0 twoC8], [], []⟩, turns := List.replicate (2 * 2 + 2) .p ++ [] }

theorem witness_BatchStart : beforeBatch.BatchStart (command 0x11000002 220 0 twoC8) (.tsRxb 2) .rxq 2 0 [] [] where
  inv := inv_of_check (by decide +kernel)
  running := rfl
  between := rfl
  presented := rfl
  decoded := by decide
  kind := .inl ⟨rfl, rfl, rfl⟩
  nonempty := by decide
  bounded := by decide +kernel
  turns := rfl

theorem witness_BatchTimesMonotone : timeBit + beforeBatch.cfg.tsW ≤ beforeBatch.cfg.frameW
    ∧ field (Sys2Proof.core.run 6 beforeBatch)
      (fun t : State => (t.contents .rxq).map fun e => e.map (frameTime t.cfg)) = some [some 0, some 220]
    ∧ ((List.range 1).map fun k => beforeBatch.frameDur (command 0x11000002 220 0 twoC8) 0 .rxq (k + 1)).sum
      ≤ (220 : Word).toNat % 2 ^ beforeBatch.cfg.tsW := by decide +kernel

/-- A batch of two into a ring with one free slot, for both batch commands. -/
theorem witness_BatchRunsToPublish (tx : Bool) :
    let c := command (if tx then 0x12000002 else 0x11000002) 9 255 twoC8
    let s : State := { nearlyFullRing with input := ⟨[c], [], []⟩, turns := List.replicate (2 * 2 + 2) .p ++ [] }
    s.BatchStart c (if tx then .tsTxb 2 else .tsRxb 2) (if tx then .txrq else .rxq) 2 (if tx then 255 else 0) [] []
      ∧ min (2 : BitVec 16).toNat (s.cap .txrq - s.used .txrq) = 1
      ∧ min (2 : BitVec 16).toNat (s.cap .rxq - s.used .rxq) = 1 := by
  refine ⟨⟨witness_inv_rings.ports _ nearlyFullRing.log _ nearlyFullRing.ticks nearlyFullRing.port, rfl, rfl, rfl, ?_, ?_,
    by decide, ?_, rfl⟩, ?_, ?_⟩
  · cases tx <;> decide
  · cases tx <;> [exact .inl ⟨rfl, rfl, rfl⟩; exact .inr ⟨rfl, rfl, by decide +kernel, by decide +kernel⟩]
  · show 2 ≤ demo.cfg.batchMax
    decide +kernel
  · show min 2 (nearlyFullRing.cap .txrq - nearlyFullRing.used .txrq) = 1
    decide +kernel
  · show min 2 (nearlyFullRing.cap .rxq - nearlyFullRing.used .rxq) = 1
    decide +kernel

/-- A write that just fits and one that just does not. -/
theorem witness_BcWrAppends :
    let s := onPort (withChan1 demo .b0 500 0) .t (command 0x3010000C)
    s.halted = false ∧ s.port = .t ∧ s.presented s.port = some (command 0x3010000C)
      ∧ s.actOff .dataIn + (12 : BitVec 16).toNat ≤ s.bufIn .dataIn
      ∧ s.bufIn .dataIn < s.actOff .dataIn + (13 : BitVec 16).toNat := by decide +kernel

/-- BC.SUB with nothing to submit, with the other bank in flight, and with a full bank, which is padded. -/
theorem witness_BcSubSubmits :
    [((0 : Nat), (0 : Nat)), (1, 1)].all (fun x =>
      let s := onPort (withChan1 demo .b0 x.1 x.2) .t (command 0x32100000)
      s.cfg.valid && !s.halted && s.port == .t && (s.actOff .dataIn == 0 || s.idleOff .dataIn != 0)) = true
    ∧ [(512, 516), (511, 511)].all (fun x =>
      let s := onPort (withChan1 demo .b0 x.1 0) .t (command 0x32100000)
      s.cfg.valid && !s.halted && s.port == .t && s.actOff .dataIn != 0 && s.idleOff .dataIn == 0
        && decide (s.actOff .dataIn ≤ s.bufIn .dataIn)
        && paddedLength s.cfg .dataIn (s.actOff .dataIn) == x.2) = true := by decide +kernel

/-- BC.TXC with the other bank empty, and with it full. -/
theorem witness_BcTxcCompletes : [((0 : Nat), 0), (512, 516)].all (fun x =>
    let s := onPort (withChan1 demo .b0 x.1 516) .u (command 0x38100000)
    s.cfg.valid && !s.halted && s.port == .u && s.idleOff .dataIn != 0 && (s.actOff .dataIn == 0) == (x.1 == 0)
      && decide (s.actOff .dataIn ≤ s.bufIn .dataIn)
      && (x.1 == 0 || paddedLength s.cfg .dataIn (s.actOff .dataIn) == x.2)) = true := by decide +kernel

/-- Each of the three submitters: a full bank, which is padded. -/
theorem witness_SubmitHandsOverBankBytes :
    (let s := onPort (withChan1 demo .b0 512 0) .t (command 0x32100000);
      !s.halted && s.actOff .dataIn == 512 && s.bufIn .dataIn == 512 && s.port == .t && s.idleOff .dataIn == 0
        && paddedLength s.cfg .dataIn 512 == 516) = true
    ∧ (let s := onPort (withChan1 demo .b0 512 500) .u (command 0x38100000);
      !s.halted && s.actOff .dataIn == 512 && s.bufIn .dataIn == 512 && s.port == .u && s.idleOff .dataIn != 0) = true
    ∧ (let s := onPort { withChan1 demo .b0 512 0 with txAvail := 0 } .u (command 0x3A000200);
      !s.halted && s.actOff .dataIn == 512 && s.bufIn .dataIn == 512 && s.port == .u && s.txAvail == 0
        && decide ((512 : BitVec 16).toNat ≤ s.bufIn .dataIn) && s.idleOff .dataIn == 0) = true := by decide +kernel

/-- A ready channel that a submit makes not ready. -/
theorem witness_BcRdyReports : (withChan1 demo .b0 512 0).isReady .dataIn = true
    ∧ field (exec (.bcSub .dataIn) (onPort (withChan1 demo .b0 512 0) .t (command 0x32100000)))
      (fun t => t.isReady .dataIn) = some false := by decide +kernel

theorem witness_BcRxcReceives :
    let s := onPort demo .u (command 0x39200200)
    s.halted = false ∧ s.port = .u ∧ s.presented .u = some (command 0x39200200)
      ∧ (512 : BitVec 16).toNat ≤ s.bufOut .cmdOut ∧ s.bufOut .cmdOut < (513 : BitVec 16).toNat := by decide +kernel

theorem witness_ChannelsIndependent : (InChan.cmdIn ≠ .dataIn) ∧ (OutChan.cmdOut ≠ .dataOut) := by decide

theorem witness_WriteSubmitComplete :
    let s : State := { demo with
      input := ⟨[], [command 0x38100000], [command 0x30100200, command 0x32100000]⟩, turns := [.t, .t, .u] }
    (s.cfg.valid = true ∧ s.halted = false ∧ s.off.sel .dataIn = ⟨0, 0⟩ ∧ s.act.sel .dataIn = .b0
      ∧ 0 < (512 : BitVec 16).toNat ∧ (512 : BitVec 16).toNat ≤ s.bufIn .dataIn)
    ∧ s.input.t = [command 0x30100200, command 0x32100000] ∧ s.input.u = [command 0x38100000]
    ∧ decodeWord (command 0x30100200).word = .ok (.bcWr .dataIn 512)
    ∧ decodeWord (command 0x32100000).word = .ok (.bcSub .dataIn)
    ∧ decodeWord (command 0x38100000).word = .ok (.bcTxc .dataIn) ∧ s.turns = [.t, .t, .u] ++ [] := by decide +kernel

/-- For `ChEnStoresOrResets`, `ChRstResets` and `GuardedCommandsWait`: port P between commands, and in the middle of one;
BC.TXC with nothing in flight. -/
theorem witness_guards :
    (let s := onPort demo .t (command 0x44000000);
      !s.halted && s.port == .t && s.pPhase == .idle) = true
    ∧ (let s := onPort inPassTwo .t (command 0x44000000);
      !s.halted && s.port == .t && s.pPhase != .idle) = true
    ∧ (let s := onPort demo .u (command 0x38100000);
      !s.halted && s.port == .u && s.idleOff .dataIn == 0) = true := by decide +kernel

/-- For `ChBtStoresTiming` and `ChFclClearsFeatures`. -/
theorem witness_configuration :
    let s := onPort demo .t (command 0x41000000)
    s.halted = false ∧ s.port = .t ∧ s.presented s.port = some (command 0x41000000) := by decide +kernel

/-- For `ChForOrsFeatures` and `ConflictingFeaturesRefused`: a request with an unsupported bit, one without, one that only
conflicts, and one beside it that does not. -/
theorem witness_features :
    (let s := onPort demo .u (command 0x4200000C);
      !s.halted && s.port == .u && (0x000C : BitVec 16) &&& ~~~(BitVec.ofNat 16 (s.cfg.featPerm ||| s.cfg.featConf)) == 8
        && (0x0007 : BitVec 16) &&& ~~~(BitVec.ofNat 16 (s.cfg.featPerm ||| s.cfg.featConf)) == 0 && s.cfg.featConflicts == []) = true
    ∧ (let s := onPort { demo with cfg := { demo.cfg with featConflicts := [(1, 4)] } } .u (command 0x42000004);
      !s.halted && s.port == .u && (4 : BitVec 16) &&& ~~~(BitVec.ofNat 16 (s.cfg.featPerm ||| s.cfg.featConf)) == 0
        && decide ((s.feat, (4 : BitVec 16)) ∈ s.cfg.featConflicts)
        && !decide ((s.feat, (2 : BitVec 16)) ∈ s.cfg.featConflicts)) = true := by decide +kernel

theorem witness_ChStatReadsRegister :
    let s := onPort demo .t (command 0x4500000E)
    s.halted = false ∧ s.port = .t ∧ s.registers[(0 : BitVec 16).toNat]? = some 0
      ∧ s.registers[(14 : BitVec 16).toNat]? = some 0 ∧ 15 ≤ (15 : BitVec 16).toNat := by decide +kernel

/-- The four outcomes of a transmit request of 8 bytes, at the bounds of the fit: a slot; it just fits; it just does not,
with the other bank empty, and in flight. -/
theorem witness_ChTxrqOutcomes :
    [((1 : BitVec 8), (504 : Nat), (0 : Nat), true), (0, 504, 1, true), (0, 505, 0, false), (0, 512, 0, false),
      (0, 505, 1, false)].all (fun x =>
      let s := onPort { withChan1 demo .b0 x.2.1 x.2.2.1 with txAvail := x.1 } .u (command 0x3A000008)
      s.cfg.valid && !s.cfg.desyncLiteral && !s.halted && s.port == .u
        && s.presented .u == some (command 0x3A000008) && decide ((8 : BitVec 16).toNat ≤ s.cfg.bufIn.dataIn)
        && s.act.dataIn == .b0 && s.txAvail == x.1 && (s.offOf .dataIn (Bank.other .b0)) == x.2.2.1
        && decide (s.offOf .dataIn .b0 + 8 ≤ s.cfg.bufIn.dataIn) == x.2.2.2
        && decide (s.offOf .dataIn .b0 ≤ s.cfg.bufIn.dataIn)) = true := by decide +kernel

/-- A dropped request while channel 1 is not ready, under each reading, with a receipt that fits and one that does not. -/
theorem witness_LiteralDesyncReading : [true, false].all (fun lit => [(504 : Nat), 505].all fun o =>
    let s := onPort { withChan1 demo .b0 o 1 with txAvail := 0, cfg := { demo.cfg with desyncLiteral := lit } } .u
      (command 0x3A000008)
    s.legal (.chTxrq 8) && !s.isReady .dataIn && s.fits .dataIn 8 == decide (o = 504)
      && (after (exec (.chTxrq 8) s)).isSome) = true := by decide +kernel

theorem witness_PortPWritesOnlyItsState : inPassTwo.port = .p ∧ inPassTwo.cfg.txSlots < 2 ^ 8
    ∧ inPassTwo.txAvail.toNat ≤ inPassTwo.cfg.txSlots := by decide +kernel

/-- From a state that meets the invariant, a submit that is not allowed halts. -/
theorem witness_OnlySubmitHalts :
    let s : State := { nearlyFullRing with port := .t }
    s.Inv ∧ s.halted = false ∧ field (exec (.bcSub .cmdIn) s) (fun t => t.halted) = some true :=
  ⟨witness_inv_rings.ports nearlyFullRing.input nearlyFullRing.log nearlyFullRing.turns nearlyFullRing.ticks .t,
    by decide +kernel⟩

/-- Each clause of `ModelStopsByName`: a push in a batch, a batch in a push; an unwritten slot; an unwritten scratch word;
a scratch index at the bound and below zero; padding beyond the bank. -/
theorem witness_ModelStopsByName :
    (!inPassTwo.halted && inPassTwo.legal (.rbPush .rxq) && isPush (.rbPush .rxq) && inPassTwo.pPhase == .pass2) = true
    ∧ (!inPushPub.halted && inPushPub.legal (.tsRxb 64) && isBatch (.tsRxb 64) && inPushPub.pPhase == .pushPub) = true
    ∧ (let s := onPort nearlyFullRing .t (command 0x21000000);
      !s.halted && s.port == .t && s.cCur.rxq != s.cLim.rxq && s.readSlot .rxq s.cCur.rxq == none) = true
    ∧ (let s : State := { inPassTwo with pTmp := [] };
      !s.halted && s.legal (.tsRxb 2) && s.pPhase == .pass2 && decide (fill s.cfg.idxW s.pPut s.get.rxq < s.cap .rxq)
        && s.pTmp.read s.pI.toNat == none) = true
    ∧ [(65 : BitVec 16), 0].all (fun i =>
      let s : State := { inPassTwo with pPhase := .pass1, pI := i }
      !s.halted && s.legal (.tsRxb 2) && s.pPhase == .pass1 && decide (s.cfg.batchMax ≤ (s.pI - 1).toNat)) = true
    ∧ (let s := onPort (withChan1 demo .b0 576 0) .t (command 0x32100000);
      !s.halted && s.port == .t && s.idleOff .dataIn == 0 && decide (s.bufIn .dataIn < s.actOff .dataIn)
        && decide (s.cfg.mpsIn.dataIn < s.bufIn .dataIn) && s.actOff .dataIn % s.cfg.mpsIn.dataIn == 0)
      = true := by decide +kernel

end Sys2Proof.Tests
end

/-! Legality read off the operation table (R95, R263), against the decoder and the order of checks. Each shape of row of R93 is
treated once; `State.tableLegal_eq` puts the table beside the decoder row by row. -/

namespace Sys2Proof.Machine

/-! Operand fields -/

/-- An operand under a mask of its bits from `k` up is clear exactly where it has at most `k` bits (R95 e). -/
theorem and_shiftLeft_allOnes_eq_zero_iff {w : Nat} (x : BitVec w) (k : Nat) :
    x &&& (BitVec.allOnes w <<< k) = 0 ↔ x.toNat < 2 ^ k := by
  constructor
  · intro h
    refine Nat.lt_pow_two_of_testBit _ fun i hi => ?_
    by_cases hw : i < w
    · have hbit := congrArg (fun y => y.getLsbD i) h
      simpa [hw, Nat.not_lt.2 hi, show i - k < w by omega, BitVec.getLsbD] using hbit
    · exact x.getLsbD_of_ge i (by omega)
  · intro h
    refine BitVec.eq_of_getLsbD_eq fun i hi => ?_
    by_cases hk : i < k
    · simp [hk]
    · have hbit : x.getLsbD i = false :=
        Nat.testBit_lt_two_pow (Nat.lt_of_lt_of_le h (Nat.pow_le_pow_right (by decide) (Nat.not_lt.1 hk)))
      simp [hbit]

theorem and_FFFF_eq_zero_iff (imm : BitVec 16) : imm &&& 0xFFFF#16 = 0#16 ↔ imm = 0 := by
  rw [show 0xFFFF#16 = BitVec.allOnes 16 from rfl, BitVec.and_allOnes]
  rfl

theorem and_FFFE_eq_zero_iff (imm : BitVec 16) : imm &&& 0xFFFE#16 = 0#16 ↔ imm.toNat ≤ 1 :=
  (and_shiftLeft_allOnes_eq_zero_iff imm 1).trans Nat.lt_succ_iff

theorem and_FF00_eq_zero_iff (imm : BitVec 16) : imm &&& 0xFF00#16 = 0#16 ↔ imm.toNat < 2 ^ 8 :=
  and_shiftLeft_allOnes_eq_zero_iff imm 8

theorem and_FC00_eq_zero_iff (imm : BitVec 16) : imm &&& 0xFC00#16 = 0#16 ↔ imm.toNat < 2 ^ 10 :=
  and_shiftLeft_allOnes_eq_zero_iff imm 10

/-- The bits of `opb` above `retry` are clear exactly where it has at most 8 bits (R95 f). -/
theorem extract_high24_eq_zero_iff (x : Word) : x.extractLsb' 8 24 = 0#24 ↔ x.toNat < 2 ^ 8 := by
  rw [← BitVec.toNat_inj, BitVec.extractLsb'_toNat, Nat.shiftRight_eq_div_pow]
  have := x.isLt
  change _ % _ = 0 ↔ _
  omega

theorem ne_p_iff (q : Port) : q ≠ .p ↔ q = .t ∨ q = .u := by cases q <;> decide

/-! The operand fields `sel` and `imm16` in the decoder -/

theorem any_selNone_const (b : Bool) (sel : BitVec 4) :
    (selNone sel).toOption.any (fun _ => b) = (b && decide (sel = 0)) := by
  revert sel b; decide

theorem any_selRing_const (b : Bool) (sel : BitVec 4) :
    (selRing sel).toOption.any (fun _ => b) = (b && decide (sel.toNat ≤ 2)) := by
  revert sel b; decide

theorem any_selIn_const (b : Bool) (sel : BitVec 4) :
    (selIn sel).toOption.any (fun _ => b) = (b && decide (sel.toNat ≤ 1)) := by
  revert sel b; decide

theorem any_selPhase_const (b : Bool) (sel : BitVec 4) :
    (selPhase sel).toOption.any (fun _ => b) = (b && decide (sel.toNat ≤ 1)) := by
  revert sel b; decide

/-- `sel` of an out-channel together with a bound that the channel sets. -/
theorem any_selOut_bound (b : Bool) (x : PerOut Nat) (n : Nat) (sel : BitVec 4) :
    (selOut sel).toOption.any (fun c => b && decide (n ≤ x.sel c))
      = (b && (decide (sel = 2) && decide (n ≤ x.cmdOut) || decide (sel = 3) && decide (n ≤ x.dataOut))) := by
  unfold selOut
  by_cases h2 : sel = 2
  · subst h2
    exact congrArg (b && ·) (Bool.or_false _).symm
  · by_cases h3 : sel = 3
    · subst h3; rfl
    · rw [if_neg h2, if_neg h3, decide_eq_false h2, decide_eq_false h3]
      simp [Except.toOption]

theorem decide_le_sel_dataIn (x : PerIn Nat) (n : Nat) : decide (n ≤ x.sel .dataIn) = decide (n ≤ x.dataIn) := rfl

/-! The rows of the table -/

/-- A row of the operation table, read by the decoder, gives a command that is legal in `s`. -/
def State.accepts (s : State) (row : Except DecodeError Instr) : Bool := row.toOption.any s.legal

/-- A row that fixes no bit of `imm16`. -/
theorem State.accepts_map {α : Type} (s : State) (mk : α → Instr) (field : Except DecodeError α) :
    s.accepts (field.map mk) = field.toOption.any fun a => s.legal (mk a) := by
  cases field <;> rfl

/-- A row with bits of `imm16` that are 0. -/
theorem State.accepts_bind_immClear {α : Type} (s : State) (mk : α → Instr) (mask : BitVec 16)
    (field : Except DecodeError α) (imm : BitVec 16) :
    s.accepts (field.bind fun a => (immClear imm mask).map fun _ => mk a)
      = (field.toOption.any (fun a => s.legal (mk a)) && decide (imm &&& mask = 0)) := by
  unfold immClear
  cases field with
  | error e => rfl
  | ok a =>
    by_cases h : imm &&& mask = 0
    · rw [if_pos h, decide_eq_true h, Bool.and_true]; rfl
    · rw [if_neg h, decide_eq_false h, Bool.and_false]; rfl

theorem State.accepts_rowImm (s : State) (mk : BitVec 16 → Instr) (mask : BitVec 16) (sel : BitVec 4) (imm : BitVec 16) :
    s.accepts (rowImm mk mask sel imm) = (s.legal (mk imm) && decide (sel = 0) && decide (imm &&& mask = 0)) := by
  unfold rowImm
  rw [State.accepts_bind_immClear s (fun _ => mk imm), any_selNone_const]

/-- The three conditions of R95 (b), (e), (f) on a decoded command. -/
theorem State.legal_eq (s : State) (i : Instr) :
    s.legal i = (decide (s.port ∈ i.ports) && i.inBounds s.cfg && s.opbClear i) := by
  simp [State.legal]

/-- Looking up `op` in the table: its own row, or the rows after it. -/
theorem any_ite_some {α : Type} (c : Prop) [Decidable c] (f : α → Bool) (x : α) (rest : Option α) :
    (if c then some x else rest).any f = if c then f x else rest.any f := by
  split <;> rfl

/-- R93 and R95, the decoder's reading beside the table's: with `zero` = 0, the fields are legal in the table exactly where
their row decodes to a command that is legal on its port, within its bounds and with its buses. -/
theorem State.tableLegal_eq (s : State) (op : BitVec 8) (sel : BitVec 4) (imm : BitVec 16) :
    tableLegal s.cfg s.port op sel 0 imm s.opb = (decodeRow op sel imm).any s.accepts := by
  simp only [tableLegal, decodeRow, any_ite_some, ite_or, decide_true, Bool.true_and, rowRing, rowIn, State.accepts_rowImm,
    State.accepts_bind_immClear, State.accepts_map, State.legal_eq, Instr.ports, Instr.inBounds, State.opbClear]
  refine if_congr .rfl ?rbPush <| if_congr .rfl ?tsRxb <| if_congr .rfl ?tsTxb <| if_congr .rfl ?tsBst <|
    if_congr .rfl ?tsBer <| if_congr .rfl ?rbPopb <| if_congr .rfl ?rbPopn <| if_congr .rfl ?rbPopr <|
    if_congr .rfl ?rbStat <| if_congr .rfl ?bcWr <| if_congr .rfl ?bcRdy <| if_congr .rfl ?bcSub <|
    if_congr .rfl ?bcTxc <| if_congr .rfl ?bcRxc <| if_congr .rfl ?chTxrq <| if_congr .rfl ?chEn <|
    if_congr .rfl ?chBt <| if_congr .rfl ?chFor <| if_congr .rfl ?chFcl <| if_congr .rfl ?chRst <|
    if_congr .rfl ?chStat rfl
  case rbPush | rbPopb | rbPopn | rbPopr | rbStat => simp [any_selRing_const, and_FFFF_eq_zero_iff]
  case bcRdy | bcSub => simp [any_selIn_const, and_FFFF_eq_zero_iff, ← ne_p_iff]
  case bcTxc => simp [any_selIn_const, and_FFFF_eq_zero_iff]
  case bcWr => simp [any_selIn_const, ← ne_p_iff]
  case chBt => simp [any_selPhase_const, and_FFFF_eq_zero_iff, ← ne_p_iff]
  case bcRxc => simp [any_selOut_bound]
  case tsRxb => simp [Bool.and_right_comm]
  case chTxrq => simp [decide_le_sel_dataIn, Bool.and_right_comm]
  case tsTxb => simp [extract_high24_eq_zero_iff, Bool.and_right_comm]
  case tsBst => simp [and_FF00_eq_zero_iff]
  case tsBer => simp [and_FC00_eq_zero_iff]
  case chEn => simp [and_FFFE_eq_zero_iff, ← ne_p_iff]
  case chFcl | chRst => simp [and_FFFF_eq_zero_iff, ← ne_p_iff]
  case chFor => simp [← ne_p_iff]
  case chStat => simp [Bool.and_right_comm, ← ne_p_iff]

/-- R95 (c). -/
theorem tableLegal_of_zero_ne {zero : BitVec 4} (hz : zero ≠ 0) (P : Params) (q : Port) (op : BitVec 8) (sel : BitVec 4)
    (imm : BitVec 16) (opb : Word) : tableLegal P q op sel zero imm opb = false := by
  rw [tableLegal, decide_eq_false hz, Bool.false_and]

/-! Commands as presented -/

theorem State.opb_of_presented {s : State} {cmd : Command} (hp : s.presented s.port = some cmd) : s.opb = cmd.opb := by
  simp [State.opb, hp]

/-- The command on the port in turn is legal in the table exactly where its word decodes to a command that is legal there. -/
theorem State.commandLegal_eq {s : State} {cmd : Command} (hp : s.presented s.port = some cmd) :
    commandLegal s.cfg s.port cmd = s.accepts (decodeWord cmd.word) := by
  change tableLegal s.cfg s.port (wordOp cmd.word) (wordSel cmd.word) (wordZero cmd.word) (wordImm cmd.word) cmd.opb = _
  unfold decodeWord
  rw [← State.opb_of_presented hp]
  by_cases hz : wordZero cmd.word = 0
  · rw [hz, State.tableLegal_eq]
    cases decodeRow (wordOp cmd.word) (wordSel cmd.word) (wordImm cmd.word) <;> rfl
  · rw [tableLegal_of_zero_ne hz]
    cases decodeRow (wordOp cmd.word) (wordSel cmd.word) (wordImm cmd.word) with
    | none => rfl
    | some row => simp only [if_neg hz]; rfl

theorem State.refuseIllegal_eq_answered (s : State) : s.refuseIllegal = s.answered [] ⟨false, 1, 0, 0⟩ :=
  s.respond_eq_answered _

theorem State.refuseHalted_eq_answered (s : State) :
    s.refuseHalted = s.answered [] ⟨false, 2, s.haltCause.toNat, 0⟩ :=
  s.respond_eq_answered _

/-- Every command makes the checks of R263 before its own operation. -/
theorem exec_eq_checked (i : Instr) (s : State) : ∃ body, exec i s = s.checked i body := by
  cases i <;> exact ⟨_, rfl⟩

theorem exec_of_halted {s : State} (hh : s.halted = true) (i : Instr) : exec i s = .next s.refuseHalted := by
  obtain ⟨body, he⟩ := exec_eq_checked i s
  rw [he, State.checked_halted hh]

theorem exec_of_not_legal {s : State} {i : Instr} (hh : s.halted = false) (hl : s.legal i = false) :
    exec i s = .next s.refuseIllegal := by
  obtain ⟨body, he⟩ := exec_eq_checked i s
  rw [he, State.checked_illegal hh hl]

/-- The step of a port that presents a command: `exec` of what the word decodes to, or the answer to a word that is none. -/
theorem step_of_presented {s : State} {q : Port} {cmd : Command} (hn : s.nextPort = some q)
    (hp : s.presented q = some cmd) :
    (∃ e, decodeWord cmd.word = .error e ∧ step s = .next (s.select q).refuseWord)
      ∨ ∃ i, decodeWord cmd.word = .ok i ∧ step s = exec i (s.select q) := by
  have hps : (s.select q).presented (s.select q).port = some cmd := hp
  cases hd : decodeWord cmd.word with
  | error e => exact .inl ⟨e, rfl, by simp only [step, hn, State.perform, hps, hd]⟩
  | ok i => exact .inr ⟨i, rfl, by simp only [step, hn, State.perform, hps, hd]⟩

theorem step_of_halted {s : State} {q : Port} {cmd : Command} (hn : s.nextPort = some q)
    (hp : s.presented q = some cmd) (hh : s.halted = true) : step s = .next (s.select q).refuseHalted := by
  obtain ⟨e, -, hs⟩ | ⟨i, -, hs⟩ := step_of_presented hn hp
  · rw [hs, State.refuseWord, if_pos ((s.select_halted q).trans hh)]
  · rw [hs, exec_of_halted ((s.select_halted q).trans hh)]

/-- What no row of the table accepts is answered ILLEGAL, whether the word is no command or the command is not legal. -/
theorem step_of_not_accepted {s : State} {q : Port} {cmd : Command} (hn : s.nextPort = some q)
    (hp : s.presented q = some cmd) (hh : s.halted = false)
    (ha : (s.select q).accepts (decodeWord cmd.word) = false) : step s = .next (s.select q).refuseIllegal := by
  obtain ⟨e, -, hs⟩ | ⟨i, hd, hs⟩ := step_of_presented hn hp
  · rw [hs, State.refuseWord, if_neg (by simp [hh])]
  · rw [hd] at ha
    rw [hs, exec_of_not_legal ((s.select_halted q).trans hh) ha]

theorem step_of_accepted {s : State} {q : Port} {cmd : Command} (hn : s.nextPort = some q)
    (hp : s.presented q = some cmd) (ha : (s.select q).accepts (decodeWord cmd.word) = true) :
    ∃ i, decodeWord cmd.word = .ok i ∧ (s.select q).legal i = true ∧ step s = exec i (s.select q) := by
  obtain ⟨e, hd, -⟩ | ⟨i, hd, hs⟩ := step_of_presented hn hp
  · rw [hd] at ha; cases ha
  · rw [hd] at ha
    exact ⟨i, hd, ha, hs⟩

/-- Settles O6: the table's reading of R95 is the decoder's (`State.commandLegal_eq`), and the step answers by it. -/
theorem illegalCommandsAnswered : Obligations.IllegalCommandsAnswered := by
  intro s q cmd hn hp
  have hleg : commandLegal s.cfg q cmd = (s.select q).accepts (decodeWord cmd.word) :=
    State.commandLegal_eq (s := s.select q) hp
  rw [hleg]
  refine ⟨fun hh => ?halted, fun hh ha => ?illegal, fun _ ha => ?legal⟩
  case halted => rw [step_of_halted hn hp hh, State.refuseHalted_eq_answered, State.select_haltCause]
  case illegal => rw [step_of_not_accepted hn hp hh ha, State.refuseIllegal_eq_answered]
  case legal => exact step_of_accepted hn hp ha

end Sys2Proof.Machine

/-! Unit RB (41_ring): the push and the consumer operations, in the words of the statements. Each operation has one equation per
case of its rule; `pushRule_of_exec_eq` holds of every command that performs a single push. -/

namespace Sys2Proof.Machine

/-! What the unit shares -/

/-- The halt of a ring found above its capacity (R121, R255). -/
theorem State.halt_causeRing_eq_answered (s : State) : s.halt causeRing =
    ({ s with halted := true, haltCause := 1 } : State).answered [.halted 1] ⟨false, 2, 1, 0⟩ :=
  s.halt_eq_answered causeRing

theorem State.wdata_of_presented {s : State} {q : Port} {cmd : Command} (hq : s.port = q)
    (hp : s.presented q = some cmd) : s.wdata = cmd.wdata := by
  simp [State.wdata, hq, hp]

/-- The ring stores of `wdata` what it stores of the slice that `RB.PUSH` takes from it (R124). -/
theorem State.storedForm_wEntry (s : State) (r : Ring) :
    storedForm s.cfg r (s.wEntry r) = storedForm s.cfg r s.wdata := by
  rw [← State.mod_entryWidth, ← State.mod_entryWidth, State.wEntry, slice, Nat.shiftRight_zero, Nat.mod_mod]

/-! A single push: CHK, WR, PUB (R124) -/

theorem State.pushStep_idle {s : State} {r : Ring} {e : Nat} (h : s.pPhase = .idle) :
    s.pushStep r e = .next (s.pushChk r) := by simp only [State.pushStep, h]

theorem State.pushStep_pushWr {s : State} {r : Ring} {e : Nat} (h : s.pPhase = .pushWr) :
    s.pushStep r e = .next (s.pushWr e) := by simp only [State.pushStep, h]

theorem State.pushStep_pushPub {s : State} {r : Ring} {e : Nat} (h : s.pPhase = .pushPub) :
    s.pushStep r e = .next s.pushPub := by simp only [State.pushStep, h]

theorem State.pushChk_of_overfull {s : State} {r : Ring} (h : s.cap r < s.used r) : s.pushChk r = s.halt causeRing := by
  obtain ⟨-, heq⟩ | ⟨hfull, -⟩ | ⟨hroom, -⟩ := s.pushChk_cases r
  · exact heq
  · omega
  · omega

theorem State.pushChk_of_full {s : State} {r : Ring} (h : s.used r = s.cap r) : s.pushChk r =
    ({ s with lost := s.lost.upd r (saturated s.cfg (s.lost.sel r)) } : State).respond { ok := false } := by
  obtain ⟨hover, -⟩ | ⟨-, heq⟩ | ⟨hroom, -⟩ := s.pushChk_cases r
  · omega
  · rw [heq, satinc_eq_saturated]
  · omega

theorem State.pushChk_of_room {s : State} {r : Ring} (h : s.used r < s.cap r) :
    s.pushChk r = { s with pRing := r, pPhase := .pushWr } := by
  obtain ⟨hover, -⟩ | ⟨hfull, -⟩ | ⟨-, heq⟩ := s.pushChk_cases r
  · omega
  · omega
  · exact heq

/-- A slot write changes the slots only. -/
theorem State.writeSlot_eq (s : State) (r : Ring) (i e : Nat) : s.writeSlot r i e =
    { s with
      slotRx := (s.writeSlot r i e).slotRx, slotTx := (s.writeSlot r i e).slotTx
      slotSt := (s.writeSlot r i e).slotSt } := by
  cases r <;> rfl

/-- Everything but the slots after step WR. -/
theorem State.pushWr_eq (s : State) (e : Nat) : s.pushWr e =
    { s with
      slotRx := (s.pushWr e).slotRx, slotTx := (s.pushWr e).slotTx, slotSt := (s.pushWr e).slotSt
      pPhase := .pushPub } :=
  congrArg (fun t : State => { t with pPhase := .pushPub }) (s.writeSlot_eq s.pRing (s.put.sel s.pRing) e)

/-- Every slot after step WR. -/
theorem State.readSlotAt_pushWr (s : State) (e : Nat) (r' : Ring) (k : Nat) :
    (s.pushWr e).readSlotAt r' k =
      if r' = s.pRing ∧ k = s.slotIndex s.pRing (s.put.sel s.pRing) then some (storedForm s.cfg s.pRing e)
      else s.readSlotAt r' k :=
  State.readSlotAt_writeSlot s s.pRing (s.put.sel s.pRing) e r' k

theorem State.pushPub_eq_answered (s : State) : s.pushPub =
    ({ s with put := s.put.upd s.pRing ((s.put.sel s.pRing + 1) % 2 ^ s.cfg.idxW), pPhase := .idle } : State).answered
      [.wake s.pRing] ⟨true, 0, 0, 0⟩ :=
  State.emit_respond_eq_answered _ _ _

/-- A command performs a single push of `e` as soon as its micro-step is `pushStep` of an entry with `e`'s stored form
(R124; R163 and R164 push by the same three steps). -/
theorem pushRule_of_exec_eq {i : Instr} {r : Ring} {e e' : Nat} {s : State} (hx : exec i s = s.pushStep r e')
    (he : storedForm s.cfg r e' = storedForm s.cfg r e) : pushRule i r e s := by
  unfold pushRule
  rw [hx]
  refine ⟨fun hph hover => ?overfull, fun hph hfull => ?full, fun hph hroom => ?room, fun hph hr => ?write,
    fun hph hr => ?publish⟩
  case overfull => rw [State.pushStep_idle hph, State.pushChk_of_overfull hover, State.halt_causeRing_eq_answered]
  case full => rw [State.pushStep_idle hph, State.pushChk_of_full hfull, State.respond_eq_answered]
  case room => rw [State.pushStep_idle hph, State.pushChk_of_room hroom]
  case write =>
    subst hr
    refine ⟨_, State.pushStep_pushWr hph, fun r' k => ?_, s.pushWr_eq e'⟩
    rw [State.readSlotAt_pushWr, he]
  case publish =>
    subst hr
    rw [State.pushStep_pushPub hph, State.pushPub_eq_answered]

/-! The consumer operations (R125 to R128) -/

theorem State.popBegin_of_overfull {s : State} {r : Ring} (h : s.cap r < s.used r) : s.popBegin r = s.halt causeRing := by
  obtain ⟨-, heq⟩ | ⟨hle, -⟩ := s.popBegin_cases r
  · exact heq
  · omega

theorem State.popBegin_of_le {s : State} {r : Ring} (h : s.used r ≤ s.cap r) : s.popBegin r =
    ({ s with cLim := s.cLim.upd r (s.put.sel r), cCur := s.cCur.upd r (s.get.sel r) } : State).respond
      { ok := true, val := zext 32 (s.used r) } := by
  obtain ⟨hover, -⟩ | ⟨-, heq⟩ := s.popBegin_cases r
  · omega
  · exact heq

theorem State.popNext_of_eq {s : State} {r : Ring} (h : s.cCur.sel r = s.cLim.sel r) :
    s.popNext r = .next (s.respond { ok := false }) :=
  if_pos h

theorem State.popNext_of_read {s : State} {r : Ring} {e : Nat} (h : s.cCur.sel r ≠ s.cLim.sel r)
    (hread : s.readSlot r (s.cCur.sel r) = some e) : s.popNext r =
      .next (({ s with cCur := s.cCur.upd r (addW s.cfg.idxW (s.cCur.sel r) 1) } : State).respond
        { ok := true, rdata := zext s.cfg.frameW e }) := by
  unfold State.popNext
  rw [if_neg h, hread]

theorem State.ringStat_of_overfull {s : State} {r : Ring} (h : s.cap r < s.used r) : s.ringStat r = s.halt causeRing := by
  obtain ⟨-, heq⟩ | ⟨hle, -⟩ := s.ringStat_cases r
  · exact heq
  · omega

theorem State.ringStat_of_le {s : State} {r : Ring} (h : s.used r ≤ s.cap r) :
    s.ringStat r = s.respond { ok := true, val := cat (s.lost.sel r) 16 (zext 16 (s.used r)) } := by
  obtain ⟨hover, -⟩ | ⟨-, heq⟩ := s.ringStat_cases r
  · omega
  · exact heq

/-! On its own port a ring command of a running block carries out its operation: none of the cases of R95 applies. -/

theorem State.legal_of_mem_ports {s : State} {i : Instr} {q : Port} (hp : s.port = q) (hports : q ∈ i.ports)
    (hbounds : i.inBounds s.cfg = true) (hopb : s.opbClear i = true) : s.legal i = true := by
  simp [State.legal_eq, hp, hports, hbounds, hopb]

theorem exec_rbPush {s : State} (hh : s.halted = false) (hp : s.port = .p) (r : Ring) :
    exec (.rbPush r) s = s.pushStep r (s.wEntry r) :=
  State.checked_legal hh (State.legal_of_mem_ports hp (.head _) rfl rfl) _

theorem exec_rbPopb {s : State} (hh : s.halted = false) (hp : s.port = .t) (r : Ring) :
    exec (.rbPopb r) s = .next (s.popBegin r) :=
  State.checked_legal hh (State.legal_of_mem_ports hp (.head _) rfl rfl) _

theorem exec_rbPopn {s : State} (hh : s.halted = false) (hp : s.port = .t) (r : Ring) :
    exec (.rbPopn r) s = s.popNext r :=
  State.checked_legal hh (State.legal_of_mem_ports hp (.head _) rfl rfl) _

theorem exec_rbPopr {s : State} (hh : s.halted = false) (hp : s.port = .t) (r : Ring) :
    exec (.rbPopr r) s = .next (s.popRelease r) :=
  State.checked_legal hh (State.legal_of_mem_ports hp (.head _) rfl rfl) _

theorem exec_rbStat {s : State} (hh : s.halted = false) (hp : s.port = .t) (r : Ring) :
    exec (.rbStat r) s = .next (s.ringStat r) :=
  State.checked_legal hh (State.legal_of_mem_ports hp (.head _) rfl rfl) _

/-! The statements -/

/-- Settles O11: `RB.PUSH` is a single push of the entry in `wdata`. -/
theorem rbPushMicroSteps : Obligations.RbPushMicroSteps := by
  intro s r cmd hh hp hcmd
  rw [← State.wdata_of_presented hp hcmd]
  exact pushRule_of_exec_eq (exec_rbPush hh hp r) (s.storedForm_wEntry r)

/-- Settles O12, by the two cases of `chk`: the ring above its capacity or not. -/
theorem rbPopbBegins : Obligations.RbPopbBegins := by
  intro s r hh hp
  rw [exec_rbPopb hh hp]
  refine ⟨fun hover => ?overfull, fun hle => ⟨_, shownAs_zext 32 (s.used r), ?sampled⟩⟩
  case overfull => rw [State.popBegin_of_overfull hover, State.halt_causeRing_eq_answered]
  case sampled => rw [State.popBegin_of_le hle, State.respond_eq_answered]

/-- Settles O13, by whether the cursor is at its bound. -/
theorem rbPopnYields : Obligations.RbPopnYields := by
  intro s r hh hp
  rw [exec_rbPopn hh hp]
  refine ⟨fun hend => ?atBound, fun e hne hread => ⟨_, shownAs_zext s.cfg.frameW e, ?yielded⟩⟩
  case atBound => rw [State.popNext_of_eq hend, State.respond_eq_answered]
  case yielded => rw [State.popNext_of_read hne hread, State.respond_eq_answered, addW]

/-- Settles O14: the answer is the cursor's fill level over the `get` of before the release. -/
theorem rbPoprReleases : Obligations.RbPoprReleases := by
  intro s r hh hp
  refine ⟨_, shownAs_zext 32 (fill s.cfg.idxW (s.cCur.sel r) (s.get.sel r)), ?_⟩
  rw [exec_rbPopr hh hp, State.popRelease, State.respond_eq_answered]

/-- Settles O15: `cat` puts the counter above the 16 bits of the fill level. -/
theorem rbStatReports : Obligations.RbStatReports := by
  intro s r hh hp
  rw [exec_rbStat hh hp]
  refine ⟨fun hover => ?overfull, fun hle => ⟨_, shownAs_zext 16 (s.used r), ?reported⟩⟩
  case overfull => rw [State.ringStat_of_overfull hover, State.halt_causeRing_eq_answered]
  case reported => rw [State.ringStat_of_le hle, State.respond_eq_answered, cat]

end Sys2Proof.Machine

/-! Unit TSR (42_timestamp): pass 1 of a batch, and the duration model of R156 to R162 in the words of the statements: the
payload length, the bit counts of the three frame kinds, and the conversion to microseconds. -/

namespace Sys2Proof.Machine

/-! The batch commands and pass 1 (R152 to R154) -/

/-- A legal batch command of a running block performs the micro-step of a batch, whichever of the two it is. -/
theorem exec_of_isBatch {s : State} {i : Instr} (hh : s.halted = false) (hl : s.legal i = true) (hb : isBatch i = true) :
    ∃ ring n retry, exec i s = s.batchStep ring n retry := by
  cases i with
  | tsRxb n => exact ⟨.rxq, n, 0, State.checked_legal hh hl _⟩
  | tsTxb n => exact ⟨.txrq, n, s.retry, State.checked_legal hh hl _⟩
  | _ => cases hb

theorem State.batchStep_pass1 {s : State} {ring : Ring} {n : BitVec 16} {retry : BitVec 8} (h : s.pPhase = .pass1) :
    s.batchStep ring n retry = s.passOne := by simp only [State.batchStep, h]

/-- Descriptor `i` on the bus, in the words of the statements (R97). -/
theorem descriptor_eq (P : Params) (w i : Nat) : descriptor P w i = w / 2 ^ (P.frameW * i) % 2 ^ P.frameW := by
  rw [descriptor, slice, Nat.shiftRight_eq_div_pow]

/-- Step P1 where a frame is left to walk, its index as a number (R154). -/
theorem State.passOne_of_le {s : State} (h1 : 1 ≤ s.pI.toNat) (h2 : s.pI.toNat ≤ s.cfg.batchMax) :
    s.passOne = .next { s with
      pI := s.pI - 1
      pTmp := s.pTmp.write (s.pI.toNat - 1) s.pT
      pT := subW s.cfg.tsW s.pT (s.durUs (descriptor s.cfg s.pDesc (s.pI.toNat - 1)) s.pRetry s.pRing)
      pPhase := if s.pI.toNat = 1 then .pass2 else .pass1 } := by
  have hi : (s.pI - 1).toNat = s.pI.toNat - 1 := BitVec.toNat_sub_of_le h1
  have hlast : s.pI - 1 = 0 ↔ s.pI.toNat = 1 := by bv_omega
  unfold State.passOne
  simp only [hi, hlast]
  exact if_pos (by omega)

/-! Bit counts (R156 to R160) -/

/-- With `fdf` = 1 the remote flag is ignored (R156). -/
theorem dlcLen_fd_rtr (rtr : Bool) (dlc : BitVec 4) : dlcLen true rtr dlc = dlcLen true false dlc := by
  cases rtr <;> rfl

theorem dlcLen_classic_remote (dlc : BitVec 4) : dlcLen false true dlc = 0 := rfl

theorem dlcLen_classic_data (dlc : BitVec 4) : dlcLen false false dlc = min dlc.toNat 8 := by
  change (if dlc.toNat ≤ 8 then dlc.toNat else 8) = min dlc.toNat 8
  exact Nat.min_def.symm

theorem classicHead_eq (xtd : Bool) : classicHead xtd = if xtd then 39 else 19 := by cases xtd <;> rfl

theorem fdPre_eq (xtd : Bool) : fdPre xtd = if xtd then 36 else 17 := by cases xtd <;> rfl

theorem trailerBits_eq (P : Params) : trailerBits P = 10 + P.ifsBits := rfl

theorem fdMid_eq (P : Params) (len : Nat) :
    fdMid P len = 5 + 8 * len + P.fdSbcBits + (if len ≤ 16 then 17 else 21) := rfl

/-- A classic frame is in the nominal phase throughout, whatever its `brs` flag (R157). -/
theorem frameBits_classic (P : Params) (xtd rtr brs : Bool) (dlc : BitVec 4) : frameBits P xtd rtr false brs dlc =
    (classicHead xtd + 8 * dlcLen false rtr dlc + 15 + trailerBits P, 0) := rfl

theorem frameBits_fd_brs (P : Params) (xtd rtr : Bool) (dlc : BitVec 4) : frameBits P xtd rtr true true dlc =
    (fdPre xtd + trailerBits P, fdMid P (dlcLen true rtr dlc)) := rfl

theorem frameBits_fd_nominal (P : Params) (xtd rtr : Bool) (dlc : BitVec 4) : frameBits P xtd rtr true false dlc =
    (fdPre xtd + fdMid P (dlcLen true rtr dlc) + trailerBits P, 0) := rfl

/-! Microseconds (R161, R162) -/

/-- The length code of a descriptor: the narrowing to four bits is the slice's own. -/
theorem frameDlc_eq (d : Nat) : frameDlc d = BitVec.ofNat 4 (d / 2 ^ 8) := by
  apply BitVec.eq_of_toNat_eq
  simp only [frameDlc, slice, BitVec.toNat_ofNat, Nat.shiftRight_eq_div_pow, Nat.mod_mod]

theorem descBits_eq (P : Params) (d : Nat) : descBits P d =
    frameBits P (d.testBit 0) (d.testBit 1) (d.testBit 2) (d.testBit 3) (BitVec.ofNat 4 (d / 2 ^ 8)) := by
  rw [← frameDlc_eq]; rfl

/-- The retry overhead is of transmit completions only (R161, R162), where the parameters list no other (log 16). -/
theorem overheadBits_of_lookup_none {P : Params} {retry : BitVec 8} (h : P.txrOverheads.lookup retry = none) (ring : Ring) :
    overheadBits P ring retry = if ring = .txrq then P.txrRetryMul * retry.toNat else 0 := by
  cases ring with
  | txrq => simp [overheadBits, txrOverhead, h]
  | rxq => rfl
  | stq => rfl

/-- The duration where the parameters list none for the arguments (R161; log 16). -/
theorem State.durUs_of_lookup_none {s : State} {d : Nat} {retry : BitVec 8} {ring : Ring}
    (h : s.cfg.durations.lookup ⟨d, retry, ring, s.nmBt, s.dtBt⟩ = none) :
    s.durUs d retry ring = wholeMicroseconds s.cfg ⟨d, retry, ring, s.nmBt, s.dtBt⟩ % 2 ^ 32 := by
  simp only [State.durUs, h, Option.getD_none]

/-! The statements -/

/-- Settles O21: either command performs step P1, which writes one scratch word and the producer's registers. -/
theorem batchPassOne : Obligations.BatchPassOne := by
  intro s i hh hl hb hph h1 h2
  obtain ⟨ring, n, retry, hx⟩ := exec_of_isBatch hh hl hb
  rw [hx, State.batchStep_pass1 hph, State.passOne_of_le h1 h2, descriptor_eq]
  exact ⟨_, rfl, Memory.read_write s.pTmp (s.pI.toNat - 1) s.pT, rfl⟩

/-- Settles O25: the remote flag decides for classic frames only, and the sixteen codes of an FD frame are the table's. -/
theorem payloadLengthTable : Obligations.PayloadLengthTable := by
  refine ⟨dlcLen_classic_remote, dlcLen_classic_data, fun rtr dlc => ?_⟩
  rw [dlcLen_fd_rtr]
  revert dlc
  decide

/-- Settles O26, by the frame kind. -/
theorem frameBitCounts : Obligations.FrameBitCounts := by
  intro P xtd rtr brs dlc
  refine ⟨?classic, fun mid hmid => ?fd⟩
  case classic => rw [frameBits_classic, classicHead_eq, trailerBits_eq]
  case fd => rw [frameBits_fd_brs, frameBits_fd_nominal, fdPre_eq, trailerBits_eq, fdMid_eq, hmid]; exact ⟨rfl, rfl⟩

/-- Settles O28: the spec's own duration, with the bit counts of the descriptor put in. -/
theorem durationInMicroseconds : Obligations.DurationInMicroseconds := by
  intro s d retry ring nm dt hdur hover hbits
  have hdesc : descBits s.cfg d = (nm, dt) := (descBits_eq s.cfg d).trans hbits
  rw [State.durUs_of_lookup_none hdur, wholeMicroseconds, Nat.shiftRight_eq_div_pow]
  simp only [hdesc, overheadBits_of_lookup_none hover]

end Sys2Proof.Machine

/-! Unit BCH (43_bulk): the write, readiness and submit commands and the receive, in the words of the statements; and, for
every command of the machine, which in-channels it leaves as they are. -/

namespace Sys2Proof.Machine

/-! On its ports a bulk command of a running block carries out its operation. -/

theorem State.legal_of_ports_t_u {s : State} {i : Instr} (hp : s.port = .t ∨ s.port = .u) (hports : i.ports = [.t, .u])
    (hbounds : i.inBounds s.cfg = true) (hopb : s.opbClear i = true) : s.legal i = true := by
  obtain hp | hp := hp <;> exact State.legal_of_mem_ports hp (by simp [hports]) hbounds hopb

theorem exec_bcWr {s : State} (hh : s.halted = false) (hp : s.port = .t ∨ s.port = .u) (c : InChan) (len : BitVec 16) :
    exec (.bcWr c len) s = .next (s.bulkWrite c len) :=
  State.checked_legal hh (State.legal_of_ports_t_u hp rfl rfl rfl) _

theorem exec_bcRdy {s : State} (hh : s.halted = false) (hp : s.port = .t ∨ s.port = .u) (c : InChan) :
    exec (.bcRdy c) s = .next (s.respond { ok := s.isReady c, val := s.offsets c }) :=
  State.checked_legal hh (State.legal_of_ports_t_u hp rfl rfl rfl) _

theorem exec_bcSub {s : State} (hh : s.halted = false) (hp : s.port = .t ∨ s.port = .u) (c : InChan) :
    exec (.bcSub c) s = s.submit c :=
  State.checked_legal hh (State.legal_of_ports_t_u hp rfl rfl rfl) _

theorem exec_bcRxc {s : State} {c : OutChan} {n : BitVec 16} (hh : s.halted = false) (hp : s.port = .u)
    (hn : n.toNat ≤ s.bufOut c) : exec (.bcRxc c n) s = .next (s.receive c n) :=
  State.checked_legal hh (State.legal_of_mem_ports (i := .bcRxc c n) hp (.head _) (decide_eq_true hn) rfl) _

/-- A receive that is longer than the bank is outside R95 (e) on every port. -/
theorem State.legal_bcRxc_of_lt {s : State} {c : OutChan} {n : BitVec 16} (hn : s.bufOut c < n.toNat) :
    s.legal (.bcRxc c n) = false := by
  have hbounds : (Instr.bcRxc c n).inBounds s.cfg = false := decide_eq_false (Nat.not_le.2 hn)
  simp [State.legal_eq, hbounds]

/-- What a command can do (R263): it is answered HALTED or ILLEGAL, or it carries out `body`, the operation that stands behind
its checks. -/
theorem exec_next {i : Instr} {s t : State} (h : exec i s = .next t) :
    (∃ r, t = s.respond r) ∨ ∀ body, exec i s = s.checked i body → body = .next t := by
  obtain ⟨body, he⟩ := exec_eq_checked i s
  obtain ⟨-, rfl⟩ | ⟨-, -, rfl⟩ | ⟨hh, hl, -⟩ := State.checked_next (he.symm.trans h)
  · exact .inl ⟨_, rfl⟩
  · exact .inl ⟨_, rfl⟩
  · exact .inr fun body he => (State.checked_legal hh hl body).symm.trans (he.symm.trans h)

/-! Operands, answers and the whole state after each operation -/

/-- Byte `k` of the byte operand (R97). -/
theorem State.wBytes_getElem? (s : State) {n : BitVec 16} {k : Nat} (hk : k < n.toNat) :
    (s.wBytes n)[k]? = some (BitVec.ofNat 8 (s.wdata / 2 ^ (8 * k))) := by
  rw [State.wBytes, busBytes_getElem? _ _ _ _ hk, slice, Nat.shiftRight_eq_div_pow, Nat.zero_add]
  exact congrArg some (BitVec.eq_of_toNat_eq (by simp only [BitVec.toNat_ofNat, Nat.mod_mod]))

theorem State.bulkWrite_of_fits {s : State} {c : InChan} {len : BitVec 16} (h : s.actOff c + len.toNat ≤ s.bufIn c) :
    s.bulkWrite c len = (s.append c len (s.wBytes len)).respond { ok := true, val := zext 32 (s.actOff c + len.toNat) } := by
  obtain ⟨-, heq⟩ | ⟨hlt, -⟩ := s.bulkWrite_cases c len
  · exact heq
  · omega

theorem State.bulkWrite_of_not_fits {s : State} {c : InChan} {len : BitVec 16} (h : s.bufIn c < s.actOff c + len.toNat) :
    s.bulkWrite c len = s.respond { ok := false, val := zext 32 (s.actOff c) } := by
  obtain ⟨hle, -⟩ | ⟨-, heq⟩ := s.bulkWrite_cases c len
  · omega
  · exact heq

/-- The halt of a submit on a channel that is not ready to submit (R196, R255). -/
theorem State.halt_causeSubmit_eq_answered (s : State) : s.halt causeSubmit =
    ({ s with halted := true, haltCause := 2 } : State).answered [.halted 2] ⟨false, 2, 2, 0⟩ :=
  s.halt_eq_answered causeSubmit

theorem State.submit_of_not_ready {s : State} {c : InChan} (h : s.actOff c = 0 ∨ s.idleOff c ≠ 0) :
    s.submit c = .next (s.halt causeSubmit) := by
  have hready : ¬ s.readyToSubmit c = true := by
    rw [State.readyToSubmit_iff]
    omega
  exact if_neg hready

/-- The padding block has its place above every offset that R197 admits (R31). -/
theorem State.padFits_of_le {s : State} {c : InChan} (h : s.actOff c ≤ s.bufIn c) : s.padFits c = true := by
  simp [State.padFits, h]

theorem State.submit_of_ready {s : State} {c : InChan} (ha : s.actOff c ≠ 0) (hi : s.idleOff c = 0)
    (hle : s.actOff c ≤ s.bufIn c) : s.submit c =
      .next ((s.doSubmit c).respond { ok := true, val := zext 32 (s.paddedLen c (s.actOff c)) }) := by
  unfold State.submit State.submitThen
  rw [if_pos ((s.readyToSubmit_iff c).2 ⟨ha, hi⟩), if_pos (State.padFits_of_le hle)]

/-- Everything but the bytes after `do_submit` and a response (R194). -/
theorem State.doSubmit_respond_eq_answered (s : State) (c : InChan) (r : Response) : (s.doSubmit c).respond r =
    ({ s with
      bank := (s.doSubmit c).bank
      off := s.off.upd c ((s.off.sel c).upd (s.act.sel c) (s.paddedLen c (s.actOff c)))
      act := s.act.upd c (s.act.sel c).other } : State).answered
      [.xferStart (.inn c) (s.act.sel c) (s.paddedLen c (s.actOff c))] r :=
  (congrArg (State.respond · r) (s.doSubmit_eq c)).trans (by simp [State.respond, State.answered])

/-- Everything but the bytes after a receive (R199): two events, then the response. -/
theorem State.receive_eq_answered (s : State) (c : OutChan) (n : BitVec 16) : s.receive c n =
    ({ s with rbank := (s.receive c n).rbank, ract := s.ract.upd c (s.ract.sel c).other } : State).answered
      [.rxDeliver c (s.ract.sel c) n, .xferStart (.out c) (s.ract.sel c).other (s.bufOut c)] ⟨true, 0, n.toNat, 0⟩ := by
  simp [State.receive, State.writeRbank, State.emit, State.respond, State.answered]

/-- A byte of a receive bank after a receive (R199). -/
theorem State.readRbank_receive (s : State) (c : OutChan) (n : BitVec 16) (c' : OutChan) (b : Bank) (k : Nat) :
    (s.receive c n).readRbank c' b k =
      if c' = c ∧ b = s.ract.sel c ∧ k < n.toNat then (s.wBytes n)[k]? else s.readRbank c' b k := by
  have hlen : (s.wBytes n).length = n.toNat := busBytes_length _ _ _
  have hbytes : (s.receive c n).readRbank c' b k = (s.writeRbank c (s.ract.sel c) (s.wBytes n)).readRbank c' b k := by
    simp [State.readRbank, State.receive]
  rw [hbytes, ← hlen]
  exact State.readRbank_writeRbank s c (s.ract.sel c) (s.wBytes n) c' b k

/-! Which in-channels an operation leaves as they are -/

/-- In-channel c of `t` is that of `s`: its banks, offsets and active bank. -/
structure State.SameIn (s t : State) (c : InChan) : Prop where
  bank : t.bank.sel c = s.bank.sel c
  off : t.off.sel c = s.off.sel c
  act : t.act.sel c = s.act.sel c

/-- An operation that writes none of the three fields leaves every in-channel as it is. -/
theorem State.SameIn.of_eq {s t : State} {c : InChan} (hbank : t.bank = s.bank) (hoff : t.off = s.off)
    (hact : t.act = s.act) : s.SameIn t c :=
  ⟨by rw [hbank], by rw [hoff], by rw [hact]⟩

theorem State.SameIn.refl (s : State) (c : InChan) : s.SameIn s c := .of_eq rfl rfl rfl

theorem State.SameIn.trans {s t u : State} {c : InChan} (h : s.SameIn t c) (h' : t.SameIn u c) : s.SameIn u c :=
  ⟨h'.bank.trans h.bank, h'.off.trans h.off, h'.act.trans h.act⟩

/-- Ready or not is a matter of the channel alone (R34). -/
theorem State.SameIn.isReady_eq {s t : State} {c : InChan} (h : s.SameIn t c) : t.isReady c = s.isReady c := by
  unfold State.isReady State.idleOff State.offOf
  rw [h.off, h.act]

theorem State.sameIn_respond (s : State) (r : Response) (c : InChan) : s.SameIn (s.respond r) c := .of_eq rfl rfl rfl

theorem State.sameIn_pushStep {s t : State} {r : Ring} {e : Nat} (h : s.pushStep r e = .next t) (c : InChan) :
    s.SameIn t c := by
  obtain ⟨-, rfl⟩ | ⟨-, rfl⟩ | ⟨-, rfl⟩ := State.pushStep_next h
  case inl =>
    obtain ⟨-, heq⟩ | ⟨-, heq⟩ | ⟨-, heq⟩ := s.pushChk_cases r <;> rw [heq] <;> exact .of_eq rfl rfl rfl
  case inr.inl => rw [State.pushWr_eq]; exact .of_eq rfl rfl rfl
  case inr.inr => exact .of_eq rfl rfl rfl

theorem State.sameIn_passTwo {s t : State} (h : s.passTwo = .next t) (c : InChan) : s.SameIn t c := by
  obtain ⟨-, rfl⟩ | ⟨-, rfl⟩ | ⟨-, v, -, rfl⟩ := State.passTwo_next h
  case inl => exact .of_eq rfl rfl rfl
  case inr.inl => exact .of_eq rfl rfl rfl
  case inr.inr => rw [State.writeSlot_eq]; exact .of_eq rfl rfl rfl

theorem State.sameIn_latch (s : State) (ring : Ring) (n : BitVec 16) (retry : BitVec 8) (c : InChan) :
    s.SameIn (s.latch ring n retry) c := by
  obtain ⟨-, heq⟩ | ⟨-, heq⟩ := s.latch_cases ring n retry <;> rw [heq] <;> exact .of_eq rfl rfl rfl

theorem State.sameIn_batchStep {s t : State} {ring : Ring} {n : BitVec 16} {retry : BitVec 8}
    (h : s.batchStep ring n retry = .next t) (c : InChan) : s.SameIn t c := by
  obtain ⟨-, rfl⟩ | ⟨-, h1⟩ | ⟨-, h2⟩ | ⟨-, rfl⟩ := State.batchStep_next h
  case inl => exact s.sameIn_latch ring n retry c
  case inr.inl =>
    obtain ⟨-, rfl⟩ := State.passOne_next h1
    exact .of_eq rfl rfl rfl
  case inr.inr.inl => exact State.sameIn_passTwo h2 c
  case inr.inr.inr => rw [State.batchPub_eq]; exact .of_eq rfl rfl rfl

theorem State.sameIn_popBegin (s : State) (r : Ring) (c : InChan) : s.SameIn (s.popBegin r) c := by
  obtain ⟨-, heq⟩ | ⟨-, heq⟩ := s.popBegin_cases r <;> rw [heq] <;> exact .of_eq rfl rfl rfl

theorem State.sameIn_popNext {s t : State} {r : Ring} (h : s.popNext r = .next t) (c : InChan) : s.SameIn t c := by
  obtain ⟨-, rfl⟩ | ⟨-, e, -, rfl⟩ := State.popNext_next h <;> exact .of_eq rfl rfl rfl

theorem State.sameIn_ringStat (s : State) (r : Ring) (c : InChan) : s.SameIn (s.ringStat r) c := by
  obtain ⟨-, heq⟩ | ⟨-, heq⟩ := s.ringStat_cases r <;> rw [heq] <;> exact .of_eq rfl rfl rfl

theorem State.sameIn_orFeatures (s : State) (mask : BitVec 16) (c : InChan) : s.SameIn (s.orFeatures mask) c := by
  obtain ⟨-, heq⟩ | ⟨-, -, heq⟩ | ⟨-, -, heq⟩ := s.orFeatures_cases mask <;> rw [heq] <;> exact .of_eq rfl rfl rfl

theorem State.sameIn_receive (s : State) (c' : OutChan) (n : BitVec 16) (c : InChan) : s.SameIn (s.receive c' n) c := by
  refine .of_eq ?_ ?_ ?_ <;> simp [State.receive]

theorem State.sameIn_setBitTiming (s : State) (ph : BitPhase) (c : InChan) : s.SameIn (s.setBitTiming ph) c := by
  cases ph <;> exact .of_eq rfl rfl rfl

/-! The operations on an in-channel leave the other one as it is (R190). -/

theorem State.sameIn_setOff_of_ne {c c' : InChan} (hc : c ≠ c') (s : State) (b : Bank) (v : Nat) :
    s.SameIn (s.setOff c' b v) c :=
  ⟨rfl, by simp [hc], rfl⟩

theorem State.sameIn_append_of_ne {c c' : InChan} (hc : c ≠ c') (s : State) (len : BitVec 16) (bs : List Byte) :
    s.SameIn (s.append c' len bs) c :=
  ⟨by simp [State.append, hc], by simp [State.append, hc], rfl⟩

theorem State.sameIn_doSubmit_of_ne {c c' : InChan} (hc : c ≠ c') (s : State) : s.SameIn (s.doSubmit c') c := by
  refine ⟨?bank, ?off, ?act⟩
  case bank =>
    simp only [State.doSubmit, State.emit_bank, State.setOff_bank, State.padBank]
    split
    · simp [hc]
    · rfl
  case off => rw [State.doSubmit_eq]; simp [hc]
  case act => rw [State.doSubmit_eq]; simp [hc]

theorem State.sameIn_bulkWrite_of_ne {c c' : InChan} (hc : c ≠ c') (s : State) (len : BitVec 16) :
    s.SameIn (s.bulkWrite c' len) c := by
  obtain ⟨-, heq⟩ | ⟨-, heq⟩ := s.bulkWrite_cases c' len
  · rw [heq]; exact (s.sameIn_append_of_ne hc len _).trans (State.sameIn_respond _ _ c)
  · rw [heq]; exact s.sameIn_respond _ c

theorem State.sameIn_submit_of_ne {c c' : InChan} (hc : c ≠ c') {s t : State} (h : s.submit c' = .next t) :
    s.SameIn t c := by
  obtain ⟨-, rfl⟩ | ⟨-, -, -, rfl⟩ := State.submit_next h
  · exact .of_eq rfl rfl rfl
  · exact (s.sameIn_doSubmit_of_ne hc).trans (State.sameIn_respond _ _ c)

theorem State.sameIn_complete_of_ne {c c' : InChan} (hc : c ≠ c') {s t : State} (h : s.complete c' = .next t) :
    s.SameIn t c := by
  have hfree := s.sameIn_setOff_of_ne hc (s.act.sel c').other 0
  obtain ⟨-, rfl⟩ | ⟨-, -, rfl⟩ := State.complete_next h
  · exact hfree.trans (State.sameIn_respond _ _ c)
  · exact (hfree.trans (State.sameIn_doSubmit_of_ne hc _)).trans (State.sameIn_respond _ _ c)

theorem State.sameIn_placeReceipt_of_ne {c : InChan} (hc : c ≠ .dataIn) {s t : State} {m : BitVec 16}
    (h : s.placeReceipt m = .next t) : s.SameIn t c := by
  obtain ⟨-, rfl⟩ | ⟨-, -, -, rfl⟩ | ⟨-, -, rfl⟩ := State.placeReceipt_next h
  · exact (s.sameIn_append_of_ne hc m _).trans (State.sameIn_respond _ _ c)
  · exact ((s.sameIn_doSubmit_of_ne hc).trans (State.sameIn_append_of_ne hc _ m _)).trans (State.sameIn_respond _ _ c)
  · exact .of_eq rfl rfl rfl

theorem State.sameIn_transmitRequest_of_ne {c : InChan} (hc : c ≠ .dataIn) {s t : State} {m : BitVec 16}
    (h : s.transmitRequest m = .next t) : s.SameIn t c := by
  obtain ⟨-, rfl⟩ | ⟨-, hplace⟩ := State.transmitRequest_next h
  · exact .of_eq rfl rfl rfl
  · have hreceipt := State.sameIn_placeReceipt_of_ne hc hplace
    exact ⟨hreceipt.bank, hreceipt.off, hreceipt.act⟩

/-- The commands that can write in-channel c: the bulk commands and the receipt on it (R192 to R198, R227), and a soft
reset (R281). -/
def writesIn (c : InChan) : Instr → Bool
  | .bcWr c' _ => decide (c = c')
  | .bcSub c' => decide (c = c')
  | .bcTxc c' => decide (c = c')
  | .chTxrq _ => decide (c = .dataIn)
  | .chEn enable => !enable
  | .chRst => true
  | _ => false

/-- Every other command leaves in-channel c as it is. -/
theorem exec_sameIn {i : Instr} {s t : State} {c : InChan} (hw : writesIn c i = false) (h : exec i s = .next t) :
    s.SameIn t c := by
  obtain ⟨r, rfl⟩ | run := exec_next h
  · exact s.sameIn_respond r c
  cases i with
  | rbPush r => exact State.sameIn_pushStep (run _ rfl) c
  | tsBst code => exact State.sameIn_pushStep (run _ rfl) c
  | tsBer code dir phase => exact State.sameIn_pushStep (run _ rfl) c
  | tsRxb n => exact State.sameIn_batchStep (run _ rfl) c
  | tsTxb n => exact State.sameIn_batchStep (run _ rfl) c
  | rbPopb r => cases run _ rfl; exact s.sameIn_popBegin r c
  | rbPopn r => exact State.sameIn_popNext (run _ rfl) c
  | rbPopr r => cases run _ rfl; exact .of_eq rfl rfl rfl
  | rbStat r => cases run _ rfl; exact s.sameIn_ringStat r c
  | bcWr c' len => cases run _ rfl; exact s.sameIn_bulkWrite_of_ne (of_decide_eq_false hw) len
  | bcRdy c' => cases run _ rfl; exact s.sameIn_respond _ c
  | bcSub c' => exact State.sameIn_submit_of_ne (of_decide_eq_false hw) (run _ rfl)
  | bcTxc c' =>
    obtain ⟨-, rfl⟩ | ⟨-, hcomplete⟩ := State.guarded_next (run _ rfl)
    · exact .refl _ c
    · exact State.sameIn_complete_of_ne (of_decide_eq_false hw) hcomplete
  | bcRxc c' n => cases run _ rfl; exact s.sameIn_receive c' n c
  | chTxrq m => exact State.sameIn_transmitRequest_of_ne (of_decide_eq_false hw) (run _ rfl)
  | chEn enable =>
    obtain ⟨-, rfl⟩ | ⟨-, hset⟩ := State.guarded_next (run _ rfl)
    · exact .refl _ c
    · cases enable with
      | true => cases hset; exact .of_eq rfl rfl rfl
      | false => cases hw
  | chBt ph => cases run _ rfl; exact s.sameIn_setBitTiming ph c
  | chFor mask => cases run _ rfl; exact s.sameIn_orFeatures mask c
  | chFcl => cases run _ rfl; exact .of_eq rfl rfl rfl
  | chRst => cases hw
  | chStat regno => cases run _ rfl; exact s.sameIn_respond _ c

/-! What the commands that write a ready channel make of it (R34) -/

theorem State.inFlight_eq_not_isReady (s : State) (c : InChan) : s.inFlight c = !s.isReady c :=
  decide_not

theorem State.idleOff_append (s : State) (c : InChan) (len : BitVec 16) (bs : List Byte) :
    (s.append c len bs).idleOff c = s.idleOff c := by
  simp [State.idleOff, State.offOf, State.append]

/-- A write moves the offset of the active bank, ready or not that of the idle one. -/
theorem State.isReady_bulkWrite (s : State) (c : InChan) (len : BitVec 16) :
    (s.bulkWrite c len).isReady c = s.isReady c := by
  obtain ⟨-, heq⟩ | ⟨-, heq⟩ := s.bulkWrite_cases c len
  · rw [heq, (State.sameIn_respond _ _ c).isReady_eq, State.isReady, State.idleOff_append, State.isReady]
  · rw [heq, (s.sameIn_respond _ c).isReady_eq]

theorem State.isReady_softReset (s : State) (c : InChan) : s.softReset.isReady c = true := by
  cases c <;> rfl

/-- A ready channel is left ready by every command but a submit on it (R193). A completion finds nothing in flight there, and
a soft reset empties both banks. -/
theorem isReady_or_submits {i : Instr} {s t : State} {c : InChan} (hr : s.isReady c = true) (h : exec i s = .next t) :
    t.isReady c = true ∨ i = .bcSub c ∨ c = .dataIn ∧ ∃ m, i = .chTxrq m := by
  cases hw : writesIn c i with
  | false => exact .inl ((exec_sameIn hw h).isReady_eq.trans hr)
  | true =>
    obtain ⟨r, rfl⟩ | run := exec_next h
    · exact .inl ((s.sameIn_respond r c).isReady_eq.trans hr)
    cases i with
    | bcWr c' len =>
      cases run _ rfl
      cases of_decide_eq_true hw
      exact .inl ((s.isReady_bulkWrite c len).trans hr)
    | bcSub c' => exact .inr (.inl (by rw [of_decide_eq_true hw]))
    | bcTxc c' =>
      cases of_decide_eq_true hw
      obtain ⟨-, rfl⟩ | ⟨hflight, -⟩ := State.guarded_next (run _ rfl)
      · exact .inl hr
      · simp [State.inFlight_eq_not_isReady, hr] at hflight
    | chTxrq m => exact .inr (.inr ⟨of_decide_eq_true hw, m, rfl⟩)
    | chEn enable =>
      obtain ⟨-, rfl⟩ | ⟨-, hset⟩ := State.guarded_next (run _ rfl)
      · exact .inl hr
      · cases enable with
        | true => cases hw
        | false => cases hset; exact .inl (({ s with en := false } : State).isReady_softReset c)
    | chRst =>
      obtain ⟨-, rfl⟩ | ⟨-, hreset⟩ := State.guarded_next (run _ rfl)
      · exact .inl hr
      · cases hreset; exact .inl (s.isReady_softReset c)
    | _ => cases hw

/-! The statements -/

/-- Settles O33: the answer is `BC.RDY`'s own; that a ready channel stays ready is `isReady_or_submits`. -/
theorem bcRdyReports : Obligations.BcRdyReports := by
  refine ⟨fun s c hh hp => ?answer, fun i s t c hr h hnot => ?stays⟩
  case answer =>
    refine ⟨_, _, shownAs_zext 16 (s.idleOff c), shownAs_zext 16 (s.actOff c), ?_⟩
    rw [exec_bcRdy hh hp, State.respond_eq_answered, State.isReady, State.offsets, cat]
  case stays => exact (isReady_or_submits hr h).resolve_left (by simp [hnot])

/-- Settles O32, by whether the bytes fit. -/
theorem bcWrAppends : Obligations.BcWrAppends := by
  intro s c len cmd hh hp hcmd
  rw [exec_bcWr hh hp]
  refine ⟨fun hfits => ?fits, fun hlong => ⟨_, shownAs_zext 32 (s.actOff c), ?refused⟩⟩
  case fits =>
    rw [State.bulkWrite_of_fits hfits]
    refine ⟨_, _, rfl, shownAs_zext 32 _, fun c' b k => ?_, State.respond_eq_answered _ _⟩
    have hlen : (s.wBytes len).length = len.toNat := busBytes_length _ _ _
    refine (s.readBank_append c len (s.wBytes len) hlen c' b k).trans (if_ctx_congr .rfl ?_ fun _ => rfl)
    rintro ⟨-, -, hlo, hhi⟩
    rw [s.wBytes_getElem? (by omega), State.wdata_of_presented rfl hcmd]
  case refused => rw [State.bulkWrite_of_not_fits hlong, State.respond_eq_answered]

/-- Settles O34, by whether the channel is ready to submit. -/
theorem bcSubSubmits : Obligations.BcSubSubmits := by
  intro s c hh hp
  rw [exec_bcSub hh hp]
  refine ⟨fun hnot => ?halts, fun len ha hi hle hlen => ?submits⟩
  case halts => rw [State.submit_of_not_ready hnot, State.halt_causeSubmit_eq_answered]
  case submits =>
    subst hlen
    rw [← State.paddedLen_eq]
    refine ⟨_, _, State.submit_of_ready ha hi hle, shownAs_zext 32 _, fun c' b k => ?_,
      s.doSubmit_respond_eq_answered c _⟩
    rw [State.paddedLen_eq]
    exact s.readBank_doSubmit c c' b k

/-- Settles O36, by whether the length is within the bank. -/
theorem bcRxcReceives : Obligations.BcRxcReceives := by
  intro s c n cmd hh hp hcmd
  refine ⟨fun hn => ⟨_, exec_bcRxc hh hp hn, fun c' b k => ?bytes, s.receive_eq_answered c n⟩, fun hn => ?illegal⟩
  case bytes =>
    refine (s.readRbank_receive c n c' b k).trans (if_ctx_congr .rfl ?_ fun _ => rfl)
    rintro ⟨-, -, hk⟩
    rw [s.wBytes_getElem? hk, State.wdata_of_presented hp hcmd]
  case illegal => rw [exec_of_not_legal hh (State.legal_bcRxc_of_lt hn), State.refuseIllegal_eq_answered]

end Sys2Proof.Machine

/-! Unit CH (44_channel): the feature commands and the register read, in the words of the statements. -/

namespace Sys2Proof.Machine

/-! On ports T and U these commands of a running block carry out their operation. -/

theorem exec_chFor {s : State} (hh : s.halted = false) (hp : s.port = .t ∨ s.port = .u) (mask : BitVec 16) :
    exec (.chFor mask) s = .next (s.orFeatures mask) :=
  State.checked_legal hh (State.legal_of_ports_t_u hp rfl rfl rfl) _

theorem exec_chFcl {s : State} (hh : s.halted = false) (hp : s.port = .t ∨ s.port = .u) :
    exec .chFcl s = .next s.clearFeatures :=
  State.checked_legal hh (State.legal_of_ports_t_u hp rfl rfl rfl) _

theorem exec_chStat {s : State} {regno : BitVec 16} (hh : s.halted = false) (hp : s.port = .t ∨ s.port = .u)
    (hn : regno.toNat ≤ 14) :
    exec (.chStat regno) s = .next (s.respond { ok := true, val := zext 32 (s.statusReg regno) }) :=
  State.checked_legal hh (State.legal_of_ports_t_u (i := .chStat regno) hp rfl (decide_eq_true hn) rfl) _

/-- A register number that R45 does not list is outside R95 (e) on every port. -/
theorem State.legal_chStat_of_lt {s : State} {regno : BitVec 16} (hn : 14 < regno.toNat) :
    s.legal (.chStat regno) = false := by
  have hbounds : (Instr.chStat regno).inBounds s.cfg = false := decide_eq_false (Nat.not_le.2 hn)
  simp [State.legal_eq, hbounds]

/-! The feature commands (R223, R224) -/

theorem State.orFeatures_of_bad {s : State} {mask : BitVec 16} (h : s.badFeatures mask ≠ 0) : s.orFeatures mask =
    s.respond { ok := false, err := errFeature, val := (s.badFeatures mask).toNat } := by
  obtain ⟨-, heq⟩ | ⟨hnone, -, -⟩ | ⟨hnone, -, -⟩ := s.orFeatures_cases mask
  · exact heq
  · exact absurd hnone h
  · exact absurd hnone h

theorem State.orFeatures_of_supported {s : State} {mask : BitVec 16} (h : s.badFeatures mask = 0)
    (hc : s.featConflict mask = false) : s.orFeatures mask =
      ({ s with feat := s.feat ||| mask.toNat } : State).answered [.setFeatures (s.feat ||| mask.toNat)]
        ⟨true, 0, zext 32 (s.feat ||| mask.toNat), 0⟩ := by
  obtain ⟨hbad, -⟩ | ⟨-, hconflict, -⟩ | ⟨-, -, heq⟩ := s.orFeatures_cases mask
  · exact absurd h hbad
  · simp [hc] at hconflict
  · exact heq.trans (State.emit_respond_eq_answered _ _ _)

theorem State.featConflict_eq_false {s : State} {mask : BitVec 16} (h : (s.feat, mask) ∉ s.cfg.featConflicts) :
    s.featConflict mask = false := by
  simpa [State.featConflict] using h

theorem State.clearFeatures_eq_answered (s : State) : s.clearFeatures =
    ({ s with feat := s.cfg.featPerm } : State).answered [.setFeatures s.cfg.featPerm] ⟨true, 0, zext 32 s.cfg.featPerm, 0⟩ :=
  State.emit_respond_eq_answered _ _ _

/-! The registers by number (R45) -/

/-- The two readings of `{a, b}` (R8): appended bits, and arithmetic on their values. -/
theorem toNat_append_eq_cat {m n : Nat} (x : BitVec m) (y : BitVec n) : (x ++ y).toNat = cat x.toNat n y.toNat := by
  rw [BitVec.toNat_append, ← Nat.shiftLeft_add_eq_or_of_lt y.isLt, Nat.shiftLeft_eq, cat]

theorem State.registers_eq_map_statusReg (s : State) :
    s.registers = (List.range 15).map fun k => s.statusReg (BitVec.ofNat 16 k) := by
  simp only [State.registers, toNat_append_eq_cat, BitVec.toNat_ofBool]
  rfl

/-- A register of the list is the one that `CH.STAT` reads by its number. -/
theorem State.statusReg_of_getElem? {s : State} {regno : BitVec 16} {x : Nat}
    (h : s.registers[regno.toNat]? = some x) : regno.toNat ≤ 14 ∧ s.statusReg regno = x := by
  rw [State.registers_eq_map_statusReg, List.getElem?_map, Option.map_eq_some_iff] at h
  obtain ⟨k, hk, rfl⟩ := h
  obtain ⟨hlt, rfl⟩ := List.getElem?_eq_some_iff.1 hk
  rw [List.length_range] at hlt
  rw [List.getElem_range, BitVec.ofNat_toNat, BitVec.setWidth_eq]
  exact ⟨Nat.le_of_lt_succ hlt, rfl⟩

/-! The statements -/

/-- Settles O44, by whether the request has an unsupported bit. -/
theorem chForOrsFeatures : Obligations.ChForOrsFeatures := by
  rintro s mask _ hh hp rfl
  rw [exec_chFor hh hp]
  refine ⟨fun hbad => ?refused, fun hnone hconf => ⟨_, shownAs_zext 32 (s.feat ||| mask.toNat), ?added⟩⟩
  case refused => rw [State.orFeatures_of_bad hbad, State.respond_eq_answered]; rfl
  case added => rw [State.orFeatures_of_supported hnone (State.featConflict_eq_false hconf)]

/-- Settles O46. -/
theorem chFclClearsFeatures : Obligations.ChFclClearsFeatures := by
  intro s hh hp
  exact ⟨_, shownAs_zext 32 s.cfg.featPerm, by rw [exec_chFcl hh hp, State.clearFeatures_eq_answered]⟩

/-- Settles O47: a number in the list reads its register (`State.statusReg_of_getElem?`), any other is outside R95 (e). -/
theorem chStatReadsRegister : Obligations.ChStatReadsRegister := by
  refine fun s regno hh hp => ⟨fun x hx => ⟨_, shownAs_zext 32 x, ?listed⟩, fun hn => ?illegal⟩
  case listed =>
    obtain ⟨hn, hreg⟩ := State.statusReg_of_getElem? hx
    rw [exec_chStat hh hp hn, hreg, State.respond_eq_answered]
  case illegal => rw [exec_of_not_legal hh (State.legal_chStat_of_lt hn), State.refuseIllegal_eq_answered]

end Sys2Proof.Machine

/-! The halt (60_exceptions): what a halted block answers. -/

namespace Sys2Proof.Machine

/-- Settles O8. A word on a port is answered so whether or not it decodes, which is the first clause of O6
(`illegalCommandsAnswered`); a decoded command, because each looks at `halted` before its phase (`exec_of_halted`). -/
theorem haltedRefusesEverything : Obligations.HaltedRefusesEverything := by
  refine ⟨fun s q cmd hn hp hh => ?word, fun i s hh => ?decoded⟩
  case word =>
    obtain ⟨answersHalted, -, -⟩ := illegalCommandsAnswered s q cmd hn hp
    exact answersHalted hh
  case decoded => rw [exec_of_halted hh, State.refuseHalted_eq_answered]

end Sys2Proof.Machine

/-! The encoding (30_encoding): decoding and encoding are inverse to each other. Each field is treated once, then each shape of
row of R93, in both directions; the table of the operation numbers is walked once in each. -/

namespace Sys2Proof.Machine

/-! The operand fields, encoded and decoded -/

theorem selRing_eq_ok_iff (sel : BitVec 4) (r : Ring) : selRing sel = .ok r ↔ r.code = sel := by
  revert sel; cases r <;> decide

theorem selIn_eq_ok_iff (sel : BitVec 4) (c : InChan) : selIn sel = .ok c ↔ c.code = sel := by
  revert sel; cases c <;> decide

theorem selOut_eq_ok_iff (sel : BitVec 4) (c : OutChan) : selOut sel = .ok c ↔ c.code = sel := by
  revert sel; cases c <;> decide

theorem selPhase_eq_ok_iff (sel : BitVec 4) (ph : BitPhase) : selPhase sel = .ok ph ↔ ph.code = sel := by
  revert sel; cases ph <;> decide

theorem selNone_eq_ok_iff (sel : BitVec 4) (x : Unit) : selNone sel = .ok x ↔ 0 = sel := by
  revert sel; cases x; decide

/-! The shapes of row -/

/-- A row that fixes no bit of `imm16`. -/
theorem map_eq_ok_iff {α : Type} (field : Except DecodeError α) (mk : α → Instr) (i : Instr) :
    field.map mk = .ok i ↔ ∃ a, field = .ok a ∧ mk a = i := by
  cases field <;> simp [Except.map]

/-- A row with bits of `imm16` that are 0. -/
theorem bind_immClear_eq_ok_iff {α : Type} (field : Except DecodeError α) (mk : α → Instr) (imm mask : BitVec 16)
    (i : Instr) : (field.bind fun a => (immClear imm mask).map fun _ => mk a) = .ok i ↔
      ∃ a, field = .ok a ∧ imm &&& mask = 0 ∧ mk a = i := by
  unfold immClear
  cases field with
  | error e => simp [Except.bind]
  | ok a =>
    by_cases h : imm &&& mask = 0
    · simp only [if_pos h]; simp [Except.bind, Except.map, h]
    · simp only [if_neg h]; simp [Except.bind, Except.map]; exact fun h' => absurd h' h

theorem rowRing_eq_ok_iff (mk : Ring → Instr) (sel : BitVec 4) (imm : BitVec 16) (i : Instr) :
    rowRing mk sel imm = .ok i ↔ ∃ r, r.code = sel ∧ imm = 0 ∧ mk r = i := by
  simp [rowRing, bind_immClear_eq_ok_iff, selRing_eq_ok_iff, and_FFFF_eq_zero_iff]

theorem rowIn_eq_ok_iff (mk : InChan → Instr) (sel : BitVec 4) (imm : BitVec 16) (i : Instr) :
    rowIn mk sel imm = .ok i ↔ ∃ c, c.code = sel ∧ imm = 0 ∧ mk c = i := by
  simp [rowIn, bind_immClear_eq_ok_iff, selIn_eq_ok_iff, and_FFFF_eq_zero_iff]

theorem rowImm_eq_ok_iff (mk : BitVec 16 → Instr) (mask : BitVec 16) (sel : BitVec 4) (imm : BitVec 16) (i : Instr) :
    rowImm mk mask sel imm = .ok i ↔ 0 = sel ∧ imm &&& mask = 0 ∧ mk imm = i := by
  simp [rowImm, bind_immClear_eq_ok_iff, selNone_eq_ok_iff]

/-! The slices of `imm16` (R97) -/

theorem code_of_imm {imm : BitVec 16} (h : imm &&& 0xFF00#16 = 0#16) : (imm.extractLsb' 0 8).setWidth 16 = imm := by
  have := (and_FF00_eq_zero_iff imm).1 h
  apply BitVec.eq_of_toNat_eq
  simp only [BitVec.toNat_setWidth, BitVec.extractLsb'_toNat, Nat.shiftRight_zero]
  omega

theorem enable_of_imm {imm : BitVec 16} (h : imm &&& 0xFFFE#16 = 0#16) :
    (BitVec.ofBool (imm.getLsbD 0)).setWidth 16 = imm := by
  obtain h0 | h1 := Nat.le_one_iff_eq_zero_or_eq_one.1 ((and_FFFE_eq_zero_iff imm).1 h)
  · rw [show imm = 0#16 from BitVec.eq_of_toNat_eq h0]; rfl
  · rw [show imm = 1#16 from BitVec.eq_of_toNat_eq h1]; rfl

/-- The value of one bit. -/
theorem toNat_getLsbD {w : Nat} (x : BitVec w) (k : Nat) : (x.getLsbD k).toNat = x.toNat / 2 ^ k % 2 := by
  rw [BitVec.getLsbD, Nat.toNat_testBit]

theorem errorFields_of_imm {imm : BitVec 16} (h : imm &&& 0xFC00#16 = 0#16) :
    0#6 ++ BitVec.ofBool (imm.getLsbD 9) ++ BitVec.ofBool (imm.getLsbD 8) ++ imm.extractLsb' 0 8 = imm := by
  have hlt := (and_FC00_eq_zero_iff imm).1 h
  apply BitVec.eq_of_toNat_eq
  simp only [toNat_append_eq_cat, cat, BitVec.toNat_ofBool, toNat_getLsbD, BitVec.extractLsb'_toNat, Nat.shiftRight_zero,
    BitVec.toNat_ofNat]
  omega

/-! The table of the operation numbers, read in both directions -/

/-- Looking up an operation number: its own row, or one further down. -/
theorem row_or_rest {α : Type} {c : Prop} [Decidable c] {x y : α} {rest : Option α}
    (h : (if c then some x else rest) = some y) : c ∧ x = y ∨ rest = some y := by
  split at h
  · exact .inl ⟨‹c›, Option.some.inj h⟩
  · exact .inr h

/-- The command that a row gives has the operation number and the fields that were read. -/
theorem fields_of_decodeRow {op : BitVec 8} {sel : BitVec 4} {imm : BitVec 16} {i : Instr}
    (h : decodeRow op sel imm = some (.ok i)) : i.opcode = op ∧ i.selField = sel ∧ i.immField = imm := by
  obtain ⟨rfl, row⟩ | h := row_or_rest h
  · obtain ⟨r, rfl, rfl, rfl⟩ := (rowRing_eq_ok_iff ..).1 row; exact ⟨rfl, rfl, rfl⟩
  obtain ⟨rfl, row⟩ | h := row_or_rest h
  · obtain ⟨rfl, -, rfl⟩ := (rowImm_eq_ok_iff ..).1 row; exact ⟨rfl, rfl, rfl⟩
  obtain ⟨rfl, row⟩ | h := row_or_rest h
  · obtain ⟨rfl, -, rfl⟩ := (rowImm_eq_ok_iff ..).1 row; exact ⟨rfl, rfl, rfl⟩
  obtain ⟨rfl, row⟩ | h := row_or_rest h
  · obtain ⟨rfl, hm, rfl⟩ := (rowImm_eq_ok_iff ..).1 row; exact ⟨rfl, rfl, code_of_imm hm⟩
  obtain ⟨rfl, row⟩ | h := row_or_rest h
  · obtain ⟨rfl, hm, rfl⟩ := (rowImm_eq_ok_iff ..).1 row; exact ⟨rfl, rfl, errorFields_of_imm hm⟩
  obtain ⟨rfl, row⟩ | h := row_or_rest h
  · obtain ⟨r, rfl, rfl, rfl⟩ := (rowRing_eq_ok_iff ..).1 row; exact ⟨rfl, rfl, rfl⟩
  obtain ⟨rfl, row⟩ | h := row_or_rest h
  · obtain ⟨r, rfl, rfl, rfl⟩ := (rowRing_eq_ok_iff ..).1 row; exact ⟨rfl, rfl, rfl⟩
  obtain ⟨rfl, row⟩ | h := row_or_rest h
  · obtain ⟨r, rfl, rfl, rfl⟩ := (rowRing_eq_ok_iff ..).1 row; exact ⟨rfl, rfl, rfl⟩
  obtain ⟨rfl, row⟩ | h := row_or_rest h
  · obtain ⟨r, rfl, rfl, rfl⟩ := (rowRing_eq_ok_iff ..).1 row; exact ⟨rfl, rfl, rfl⟩
  obtain ⟨rfl, row⟩ | h := row_or_rest h
  · obtain ⟨c, hc, rfl⟩ := (map_eq_ok_iff ..).1 row; exact ⟨rfl, (selIn_eq_ok_iff sel c).1 hc, rfl⟩
  obtain ⟨rfl, row⟩ | h := row_or_rest h
  · obtain ⟨c, rfl, rfl, rfl⟩ := (rowIn_eq_ok_iff ..).1 row; exact ⟨rfl, rfl, rfl⟩
  obtain ⟨rfl, row⟩ | h := row_or_rest h
  · obtain ⟨c, rfl, rfl, rfl⟩ := (rowIn_eq_ok_iff ..).1 row; exact ⟨rfl, rfl, rfl⟩
  obtain ⟨rfl, row⟩ | h := row_or_rest h
  · obtain ⟨c, rfl, rfl, rfl⟩ := (rowIn_eq_ok_iff ..).1 row; exact ⟨rfl, rfl, rfl⟩
  obtain ⟨rfl, row⟩ | h := row_or_rest h
  · obtain ⟨c, hc, rfl⟩ := (map_eq_ok_iff ..).1 row; exact ⟨rfl, (selOut_eq_ok_iff sel c).1 hc, rfl⟩
  obtain ⟨rfl, row⟩ | h := row_or_rest h
  · obtain ⟨rfl, -, rfl⟩ := (rowImm_eq_ok_iff ..).1 row; exact ⟨rfl, rfl, rfl⟩
  obtain ⟨rfl, row⟩ | h := row_or_rest h
  · obtain ⟨rfl, hm, rfl⟩ := (rowImm_eq_ok_iff ..).1 row; exact ⟨rfl, rfl, enable_of_imm hm⟩
  obtain ⟨rfl, row⟩ | h := row_or_rest h
  · obtain ⟨ph, hph, hm, rfl⟩ := (bind_immClear_eq_ok_iff ..).1 row
    exact ⟨rfl, (selPhase_eq_ok_iff sel ph).1 hph, ((and_FFFF_eq_zero_iff imm).1 hm).symm⟩
  obtain ⟨rfl, row⟩ | h := row_or_rest h
  · obtain ⟨rfl, -, rfl⟩ := (rowImm_eq_ok_iff ..).1 row; exact ⟨rfl, rfl, rfl⟩
  obtain ⟨rfl, row⟩ | h := row_or_rest h
  · obtain ⟨rfl, hm, rfl⟩ := (rowImm_eq_ok_iff ..).1 row; exact ⟨rfl, rfl, ((and_FFFF_eq_zero_iff imm).1 hm).symm⟩
  obtain ⟨rfl, row⟩ | h := row_or_rest h
  · obtain ⟨rfl, hm, rfl⟩ := (rowImm_eq_ok_iff ..).1 row; exact ⟨rfl, rfl, ((and_FFFF_eq_zero_iff imm).1 hm).symm⟩
  obtain ⟨rfl, row⟩ | h := row_or_rest h
  · obtain ⟨rfl, -, rfl⟩ := (rowImm_eq_ok_iff ..).1 row; exact ⟨rfl, rfl, rfl⟩
  cases h

theorem immField_tsBst (code : BitVec 8) :
    code.setWidth 16 &&& 0xFF00#16 = 0#16 ∧ (code.setWidth 16).extractLsb' 0 8 = code := by
  refine ⟨(and_FF00_eq_zero_iff _).2 (by bv_omega), BitVec.eq_of_toNat_eq ?_⟩
  rw [BitVec.extractLsb'_toNat]
  bv_omega

/-- A flag is the value of its bit. -/
theorem decide_eq_iff_eq_toNat (n : Nat) (b : Bool) : decide (n % 2 = 1) = b ↔ n % 2 = b.toNat := by
  cases b <;> simp

theorem immField_tsBer (code : BitVec 8) (dir phase : Bool) {imm : BitVec 16}
    (himm : imm = (Instr.tsBer code dir phase).immField) :
    imm &&& 0xFC00#16 = 0#16 ∧ imm.extractLsb' 0 8 = code ∧ imm.getLsbD 8 = dir ∧ imm.getLsbD 9 = phase := by
  have hval : imm.toNat = phase.toNat * 512 + dir.toNat * 256 + code.toNat := by
    subst himm
    simp only [Instr.immField, toNat_append_eq_cat, cat, BitVec.toNat_ofBool, BitVec.toNat_ofNat]
    omega
  have hp := phase.toNat_le
  have hd := dir.toNat_le
  refine ⟨(and_FC00_eq_zero_iff _).2 (by omega), BitVec.eq_of_toNat_eq ?_, ?_, ?_⟩
  · rw [BitVec.extractLsb'_toNat, Nat.shiftRight_zero]
    omega
  · rw [BitVec.getLsbD, Nat.testBit_eq_decide_div_mod_eq, decide_eq_iff_eq_toNat]
    omega
  · rw [BitVec.getLsbD, Nat.testBit_eq_decide_div_mod_eq, decide_eq_iff_eq_toNat]
    omega

/-- A row accepts the fields of its command. -/
theorem decodeRow_fields (i : Instr) : decodeRow i.opcode i.selField i.immField = some (.ok i) := by
  cases i with
  | rbPush r | rbPopb r | rbPopn r | rbPopr r | rbStat r =>
    exact congrArg some ((rowRing_eq_ok_iff ..).2 ⟨r, rfl, rfl, rfl⟩)
  | tsRxb n | tsTxb n | chTxrq n | chFor n | chStat n =>
    exact congrArg some ((rowImm_eq_ok_iff ..).2 ⟨rfl, BitVec.and_zero, rfl⟩)
  | tsBst code =>
    obtain ⟨hclear, hcode⟩ := immField_tsBst code
    exact congrArg some ((rowImm_eq_ok_iff ..).2 ⟨rfl, hclear, congrArg Instr.tsBst hcode⟩)
  | tsBer code dir phase =>
    obtain ⟨hclear, hcode, hdir, hphase⟩ := immField_tsBer code dir phase rfl
    exact congrArg some ((rowImm_eq_ok_iff ..).2 ⟨rfl, hclear, by rw [hcode, hdir, hphase]⟩)
  | bcWr c len => exact congrArg some ((map_eq_ok_iff ..).2 ⟨c, (selIn_eq_ok_iff ..).2 rfl, rfl⟩)
  | bcRxc c n => exact congrArg some ((map_eq_ok_iff ..).2 ⟨c, (selOut_eq_ok_iff ..).2 rfl, rfl⟩)
  | bcRdy c | bcSub c | bcTxc c => exact congrArg some ((rowIn_eq_ok_iff ..).2 ⟨c, rfl, rfl, rfl⟩)
  | chEn enable => cases enable <;> rfl
  | chBt ph =>
    exact congrArg some ((bind_immClear_eq_ok_iff ..).2 ⟨ph, (selPhase_eq_ok_iff ..).2 rfl, BitVec.zero_and, rfl⟩)
  | chFcl | chRst => rfl

/-- A number that no command has is the number of no row (R96). -/
theorem decodeRow_eq_none {op : BitVec 8} (h : ∀ i : Instr, i.opcode ≠ op) (sel : BitVec 4) (imm : BitVec 16) :
    decodeRow op sel imm = none := by
  have other : ∀ (i : Instr) {α : Type} {x y : α}, (if op = i.opcode then x else y) = y := fun i =>
    if_neg fun hop => h i hop.symm
  exact (other (.rbPush .rxq)).trans <| (other (.tsRxb 0)).trans <| (other (.tsTxb 0)).trans <| (other (.tsBst
    0)).trans <| (other (.tsBer 0 false false)).trans <| (other (.rbPopb .rxq)).trans <| (other (.rbPopn
    .rxq)).trans <| (other (.rbPopr .rxq)).trans <| (other (.rbStat .rxq)).trans <| (other (.bcWr .cmdIn
    0)).trans <| (other (.bcRdy .cmdIn)).trans <| (other (.bcSub .cmdIn)).trans <| (other (.bcTxc .cmdIn)).trans
    <| (other (.bcRxc .cmdOut 0)).trans <| (other (.chTxrq 0)).trans <| (other (.chEn true)).trans <| (other
    (.chBt .data)).trans <| (other (.chFor 0)).trans <| (other .chFcl).trans <| (other .chRst).trans <| (other
    (.chStat 0)).trans <| rfl

/-! The statements -/

/-- Settles O1: a word made of fields is read as those fields, and their row accepts them. -/
theorem decodeOfEncode : Obligations.DecodeOfEncode := by
  intro i
  simp [decodeWord, encode, decodeRow_fields]

/-- Settles O2: a word is its four fields, of which `zero` is checked and the others are the row's. -/
theorem encodeOfDecode : Obligations.EncodeOfDecode := by
  intro w i h
  unfold decodeWord at h
  split at h
  · cases h
  · rename_i row hrow
    split at h
    · rename_i hzero
      subst h
      obtain ⟨hop, hsel, himm⟩ := fields_of_decodeRow hrow
      exact word_eq_of_fields (by simpa [encode] using hop) (by simpa [encode] using hsel)
        (by simpa [encode] using hzero.symm) (by simpa [encode] using himm)
    · cases h

/-- Settles O3: a number that no command has is none of those of the table, and the others are counted. -/
theorem reservedNumbersRefused : Obligations.ReservedNumbersRefused := by
  refine ⟨fun w hop => ?reserved, by decide +kernel⟩
  rw [decodeWord, decodeRow_eq_none hop]

/-- Settles O4: nine words of V-EN1, evaluated. -/
theorem writtenWordsDecode : Obligations.WrittenWordsDecode := by
  unfold Obligations.WrittenWordsDecode
  decide

end Sys2Proof.Machine

/-! What a micro-step can do (R12, R263), once for the whole machine: per unit one inductive relation, with a constructor for each
case of its rules that says when the case applies and writes out the whole next state. `exec_microStep` is the inversion
lemma of `exec`; frames and invariants are read off these cases. -/

namespace Sys2Proof.Machine

/-! The next states that several rules share -/

/-- `s` halted with this cause, answered (R255). -/
def State.stopped (s : State) (cause : BitVec 4) : State :=
  ({ s with halted := true, haltCause := cause } : State).answered [.halted cause] ⟨false, 2, cause.toNat, 0⟩

theorem State.halt_eq_stopped (s : State) (cause : BitVec 4) : s.halt cause = s.stopped cause :=
  s.halt_eq_answered cause

/-! The operations on an in-channel, as records -/

/-- Everything but the bytes after `do_write` where they fit (R192). -/
theorem State.append_eq (s : State) (c : InChan) (len : BitVec 16) (bs : List Byte) : s.append c len bs =
    { s with
      bank := (s.writeBank c (s.act.sel c) (s.actOff c) bs).bank
      off := s.off.upd c ((s.off.sel c).upd (s.act.sel c) (s.actOff c + len.toNat)) } := by
  unfold State.append State.setOff State.writeBank
  rfl

/-- The padding (R195) reads the active bank's offset only. -/
theorem State.padBank_setOff_other (s : State) (c : InChan) (v : Nat) :
    ((s.setOff c (s.act.sel c).other v).padBank c).bank = (s.padBank c).bank := by
  have hact : (s.setOff c (s.act.sel c).other v).actOff c = s.actOff c := by simp [State.actOff, State.offOf]
  have hneed : (s.setOff c (s.act.sel c).other v).padNeeded c (s.actOff c) = s.padNeeded c (s.actOff c) := rfl
  unfold State.padBank
  rw [hact, hneed]
  split <;> rfl

theorem State.doSubmit_bank (s : State) (c : InChan) : (s.doSubmit c).bank = (s.padBank c).bank := by
  simp only [State.doSubmit, State.emit_bank, State.setOff_bank]

theorem PerIn.upd_upd {α : Type} (x : PerIn α) (c : InChan) (v w : α) : (x.upd c v).upd c w = x.upd c w := by
  cases c <;> rfl

theorem PerIn.sel_upd_same {α : Type} (x : PerIn α) (c : InChan) (v : α) : (x.upd c v).sel c = v := by
  rw [PerIn.sel_upd, if_pos rfl]

/-! Port P: the single push (R124, R163, R164) and the batch (R152 to R155) -/

/-- The cases of a micro-step of command `i` on port P. -/
inductive ProducerStep (s : State) : Instr → State → Prop
  | pushOverfull {i : Instr} (r : Ring) (kind : isPush i = true) (above : s.cap r < s.used r) : ProducerStep s i (s.stopped 1)
  | full {i : Instr} (r : Ring) (kind : isPush i = true) (between : s.pPhase = .idle) (full : s.used r = s.cap r) :
    ProducerStep s i
      (({ s with lost := s.lost.upd r (saturated s.cfg (s.lost.sel r)) } : State).answered [] ⟨false, 0, 0, 0⟩)
  | check {i : Instr} (r : Ring) (kind : isPush i = true) (between : s.pPhase = .idle) (room : s.used r < s.cap r) :
    ProducerStep s i { s with pRing := r, pPhase := .pushWr }
  | write {i : Instr} (e : Nat) (kind : isPush i = true) (phase : s.pPhase = .pushWr) : ProducerStep s i
      { s with
        slotRx := (s.writeSlot s.pRing (s.put.sel s.pRing) e).slotRx
        slotTx := (s.writeSlot s.pRing (s.put.sel s.pRing) e).slotTx
        slotSt := (s.writeSlot s.pRing (s.put.sel s.pRing) e).slotSt
        pPhase := .pushPub }
  | publish {i : Instr} (kind : isPush i = true) (phase : s.pPhase = .pushPub) : ProducerStep s i
      (({ s with put := s.put.upd s.pRing (addW s.cfg.idxW (s.put.sel s.pRing) 1), pPhase := .idle } : State).answered
        [.wake s.pRing] ⟨true, 0, 0, 0⟩)
  | latchEmpty {i : Instr} (ring : Ring) (retry : BitVec 8) (kind : isBatch i = true) (between : s.pPhase = .idle) :
    ProducerStep s i
      (({ s with
        pRing := ring, pN := 0, pDesc := s.wdata, pRetry := retry, pT := s.time, pI := 0
        pPut := s.put.sel ring, pStored := 0, pDropped := 0 } : State).answered [] ⟨true, 0, 0, 0⟩)
  | latch {i : Instr} (ring : Ring) (n : BitVec 16) (retry : BitVec 8) (kind : isBatch i = true)
      (between : s.pPhase = .idle) (nonempty : n ≠ 0) (bounded : n.toNat ≤ s.cfg.batchMax) : ProducerStep s i
      { s with
        pRing := ring, pN := n, pDesc := s.wdata, pRetry := retry, pT := s.time, pI := n
        pPut := s.put.sel ring, pStored := 0, pDropped := 0, pPhase := .pass1 }
  | walk {i : Instr} (kind : isBatch i = true) (phase : s.pPhase = .pass1) (inScratch : (s.pI - 1).toNat < s.cfg.batchMax) :
    ProducerStep s i
      { s with
        pI := s.pI - 1
        pTmp := s.pTmp.write (s.pI - 1).toNat s.pT
        pT := subW s.cfg.tsW s.pT (s.durUs (descriptor s.cfg s.pDesc (s.pI - 1).toNat) s.pRetry s.pRing)
        pPhase := if s.pI - 1 = 0 then .pass2 else .pass1 }
  | batchOverfull {i : Instr} (kind : isBatch i = true) (phase : s.pPhase = .pass2)
      (above : s.cap s.pRing < fill s.cfg.idxW s.pPut (s.get.sel s.pRing)) : ProducerStep s i (s.stopped 1)
  | drop {i : Instr} (kind : isBatch i = true) (phase : s.pPhase = .pass2)
      (full : fill s.cfg.idxW s.pPut (s.get.sel s.pRing) = s.cap s.pRing) : ProducerStep s i
      { s with
        lost := s.lost.upd s.pRing (saturated s.cfg (s.lost.sel s.pRing)), pDropped := s.pDropped + 1, pI := s.pI + 1
        pPhase := if s.pI + 1 = s.pN then .batchPub else .pass2 }
  | store {i : Instr} (v e : Nat) (kind : isBatch i = true) (phase : s.pPhase = .pass2)
      (room : fill s.cfg.idxW s.pPut (s.get.sel s.pRing) < s.cap s.pRing) (scratch : s.pTmp.read s.pI.toNat = some v)
      (entry : e = stamped s.cfg (descriptor s.cfg s.pDesc s.pI.toNat) v) : ProducerStep s i
      { s with
        slotRx := (s.writeSlot s.pRing s.pPut e).slotRx, slotTx := (s.writeSlot s.pRing s.pPut e).slotTx
        slotSt := (s.writeSlot s.pRing s.pPut e).slotSt, pPut := addW s.cfg.idxW s.pPut 1, pStored := s.pStored + 1
        pI := s.pI + 1, pPhase := if s.pI + 1 = s.pN then .batchPub else .pass2 }
  | publishBatch {i : Instr} (kind : isBatch i = true) (phase : s.pPhase = .batchPub) : ProducerStep s i
      (({ s with
        put := s.put.upd s.pRing s.pPut, pPhase := .idle
        txAvail := if s.pRing = .txrq then s.raisedSlots s.pN else s.txAvail } : State).answered
        (if s.pPut = s.put.sel s.pRing then [] else [.wake s.pRing])
        ⟨true, 0, cat s.pDropped.toNat 16 s.pStored.toNat, 0⟩)

theorem State.pushStep_producerStep {s t : State} {i : Instr} {r : Ring} {e : Nat} (kind : isPush i = true)
    (h : s.pushStep r e = .next t) : ProducerStep s i t := by
  obtain ⟨between, rfl⟩ | ⟨phase, rfl⟩ | ⟨phase, rfl⟩ := State.pushStep_next h
  case inl =>
    obtain ⟨above, heq⟩ | ⟨full, heq⟩ | ⟨room, heq⟩ := s.pushChk_cases r
    · rw [heq, State.halt_eq_stopped]; exact .pushOverfull r kind above
    · rw [heq, State.respond_eq_answered, satinc_eq_saturated]; exact .full r kind between full
    · rw [heq]; exact .check r kind between room
  case inr.inl => rw [State.pushWr_eq]; exact .write e kind phase
  case inr.inr => rw [State.pushPub_eq_answered]; exact .publish kind phase

theorem State.passTwo_producerStep {s t : State} {i : Instr} (kind : isBatch i = true) (phase : s.pPhase = .pass2)
    (h : s.passTwo = .next t) : ProducerStep s i t := by
  obtain ⟨above, rfl⟩ | ⟨full, rfl⟩ | ⟨room, v, scratch, rfl⟩ := State.passTwo_next h
  case inl => rw [State.halt_eq_stopped]; exact .batchOverfull kind phase above
  case inr.inl => rw [satinc_eq_saturated]; exact .drop kind phase full
  case inr.inr =>
    rw [State.writeSlot_eq]
    exact .store v (withTime s.cfg (descriptor s.cfg s.pDesc s.pI.toNat) v) kind phase room scratch (withTime_eq_stamped ..)

theorem State.batchStep_producerStep {s t : State} {i : Instr} {ring : Ring} {n : BitVec 16} {retry : BitVec 8}
    (kind : isBatch i = true) (bounded : n.toNat ≤ s.cfg.batchMax) (h : s.batchStep ring n retry = .next t) :
    ProducerStep s i t := by
  obtain ⟨between, rfl⟩ | ⟨phase, h1⟩ | ⟨phase, h2⟩ | ⟨phase, rfl⟩ := State.batchStep_next h
  case inl =>
    obtain ⟨rfl, heq⟩ | ⟨nonempty, heq⟩ := s.latch_cases ring n retry
    · rw [heq, State.respond_eq_answered]; exact .latchEmpty ring retry kind between
    · rw [heq]; exact .latch ring n retry kind between nonempty bounded
  case inr.inl =>
    obtain ⟨inScratch, rfl⟩ := State.passOne_next h1
    exact .walk kind phase inScratch
  case inr.inr.inl => exact State.passTwo_producerStep kind phase h2
  case inr.inr.inr => rw [State.batchPub_eq]; exact .publishBatch kind phase

/-! Port T: the consumer (R125 to R128) -/

/-- The cases of a micro-step of a consumer command `i` on port T. -/
inductive ConsumerStep (s : State) : Instr → State → Prop
  | overfull {i : Instr} (r : Ring) (above : s.cap r < s.used r) : ConsumerStep s i (s.stopped 1)
  | begun (r : Ring) : ConsumerStep s (.rbPopb r)
      (({ s with cLim := s.cLim.upd r (s.put.sel r), cCur := s.cCur.upd r (s.get.sel r) } : State).answered []
        ⟨true, 0, zext 32 (s.used r), 0⟩)
  | atBound (r : Ring) : ConsumerStep s (.rbPopn r) (s.answered [] ⟨false, 0, 0, 0⟩)
  | yielded (r : Ring) (e : Nat) (inside : s.cCur.sel r ≠ s.cLim.sel r) (read : s.readSlot r (s.cCur.sel r) = some e) :
    ConsumerStep s (.rbPopn r)
      (({ s with cCur := s.cCur.upd r (addW s.cfg.idxW (s.cCur.sel r) 1) } : State).answered []
        ⟨true, 0, 0, zext s.cfg.frameW e⟩)
  | released (r : Ring) : ConsumerStep s (.rbPopr r)
      (({ s with get := s.get.upd r (s.cCur.sel r) } : State).answered []
        ⟨true, 0, zext 32 (fill s.cfg.idxW (s.cCur.sel r) (s.get.sel r)), 0⟩)
  | reported (r : Ring) : ConsumerStep s (.rbStat r)
      (s.answered [] ⟨true, 0, cat (s.lost.sel r) 16 (zext 16 (s.used r)), 0⟩)

/-! Unit BCH (R192 to R199) -/

/-- The cases of a micro-step of a bulk command `i`. -/
inductive BulkStep (s : State) : Instr → State → Prop
  | appended (c : InChan) (len : BitVec 16) (fits : s.actOff c + len.toNat ≤ s.bufIn c) : BulkStep s (.bcWr c len)
      (({ s with
        bank := (s.writeBank c (s.act.sel c) (s.actOff c) (s.wBytes len)).bank
        off := s.off.upd c ((s.off.sel c).upd (s.act.sel c) (s.actOff c + len.toNat)) } : State).answered []
        ⟨true, 0, zext 32 (s.actOff c + len.toNat), 0⟩)
  | noRoom (c : InChan) (len : BitVec 16) : BulkStep s (.bcWr c len)
      (s.answered [] ⟨false, 0, zext 32 (s.actOff c), 0⟩)
  | reported (c : InChan) : BulkStep s (.bcRdy c) (s.answered [] ⟨s.isReady c, 0, s.offsets c, 0⟩)
  | notReady (c : InChan) (ready : s.readyToSubmit c = false) : BulkStep s (.bcSub c) (s.stopped 2)
  | submitted (c : InChan) (idle : s.idleOff c = 0) : BulkStep s (.bcSub c)
      (({ s with
        bank := (s.padBank c).bank
        off := s.off.upd c ((s.off.sel c).upd (s.act.sel c) (s.paddedLen c (s.actOff c)))
        act := s.act.upd c (s.act.sel c).other } : State).answered
        [.xferStart (.inn c) (s.act.sel c) (s.paddedLen c (s.actOff c))]
        ⟨true, 0, zext 32 (s.paddedLen c (s.actOff c)), 0⟩)
  | waits (c : InChan) (onU : s.port = .u) (idle : s.idleOff c = 0) : BulkStep s (.bcTxc c) s
  | completed (c : InChan) (onU : s.port = .u) : BulkStep s (.bcTxc c)
      (({ s with off := s.off.upd c ((s.off.sel c).upd (s.act.sel c).other 0) } : State).answered [] ⟨true, 0, 0, 0⟩)
  | resubmitted (c : InChan) (onU : s.port = .u) : BulkStep s (.bcTxc c)
      (({ s with
        bank := (s.padBank c).bank
        off := s.off.upd c (((s.off.sel c).upd (s.act.sel c).other 0).upd (s.act.sel c) (s.paddedLen c (s.actOff c)))
        act := s.act.upd c (s.act.sel c).other } : State).answered
        [.xferStart (.inn c) (s.act.sel c) (s.paddedLen c (s.actOff c))]
        ⟨true, 0, zext 32 (s.paddedLen c (s.actOff c)), 0⟩)
  | received (c : OutChan) (n : BitVec 16) (onU : s.port = .u) (bounded : n.toNat ≤ s.bufOut c) :
    BulkStep s (.bcRxc c n)
      (({ s with
        rbank := (s.writeRbank c (s.ract.sel c) (s.wBytes n)).rbank
        ract := s.ract.upd c (s.ract.sel c).other } : State).answered
        [.rxDeliver c (s.ract.sel c) n, .xferStart (.out c) (s.ract.sel c).other (s.bufOut c)] ⟨true, 0, n.toNat, 0⟩)

/-! Unit CH (R221 to R227) -/

/-- The cases of a micro-step of a channel command `i`. -/
inductive ChannelStep (s : State) : Instr → State → Prop
  | sent (m : BitVec 16) (onU : s.port = .u) (slot : s.txAvail ≠ 0) : ChannelStep s (.chTxrq m)
      (({ s with txAvail := s.txAvail - 1 } : State).answered [.requestTransmit s.wFrame] ⟨true, 0, 0, 0⟩)
  | placed (m : BitVec 16) (onU : s.port = .u) (fits : s.actOff .dataIn + m.toNat ≤ s.bufIn .dataIn) :
    ChannelStep s (.chTxrq m)
      (({ s with
        txDropped := saturated s.cfg s.txDropped, desync := s.literalDesync
        bank := (s.writeBank .dataIn (s.act.sel .dataIn) (s.actOff .dataIn) (s.receipt m)).bank
        off := s.off.upd .dataIn ((s.off.sel .dataIn).upd (s.act.sel .dataIn) (s.actOff .dataIn + m.toNat)) } :
          State).answered [] ⟨false, 0, 1, 0⟩)
  | submittedPlaced (m : BitVec 16) (onU : s.port = .u) (bounded : m.toNat ≤ s.bufIn .dataIn)
      (idle : s.idleOff .dataIn = 0) : ChannelStep s (.chTxrq m)
      (({ s with
        txDropped := saturated s.cfg s.txDropped, desync := s.literalDesync
        bank := ((s.padBank .dataIn).writeBank .dataIn (s.act.sel .dataIn).other 0 (s.receipt m)).bank
        off := s.off.upd .dataIn
          (((s.off.sel .dataIn).upd (s.act.sel .dataIn) (s.paddedLen .dataIn (s.actOff .dataIn))).upd
            (s.act.sel .dataIn).other m.toNat)
        act := s.act.upd .dataIn (s.act.sel .dataIn).other } : State).answered
        [.xferStart (.inn .dataIn) (s.act.sel .dataIn) (s.paddedLen .dataIn (s.actOff .dataIn))] ⟨false, 0, 2, 0⟩)
  | lost (m : BitVec 16) (onU : s.port = .u) : ChannelStep s (.chTxrq m)
      (({ s with txDropped := saturated s.cfg s.txDropped, desync := true } : State).answered [] ⟨false, 0, 3, 0⟩)
  | enabled : ChannelStep s (.chEn true) (({ s with en := true } : State).answered [.enable true] ⟨true, 0, 1, 0⟩)
  | disabled (between : s.pPhase = .idle) : ChannelStep s (.chEn false)
      (({ s with en := false } : State).afterSoftReset.answered [.enable false] ⟨true, 0, 0, 0⟩)
  | reset (between : s.pPhase = .idle) : ChannelStep s .chRst (s.afterSoftReset.answered [] ⟨true, 0, 0, 0⟩)
  | waits {i : Instr} (guarded : i = .chRst ∨ i = .chEn false) : ChannelStep s i s
  | timed (ph : BitPhase) (e : Event) : ChannelStep s (.chBt ph)
      (({ s with
        nmBt := (s.setBitTiming ph).nmBt, nmBrp := (s.setBitTiming ph).nmBrp, nmTseg1 := (s.setBitTiming ph).nmTseg1
        nmTseg2 := (s.setBitTiming ph).nmTseg2, nmSjw := (s.setBitTiming ph).nmSjw, dtBt := (s.setBitTiming ph).dtBt
        dtBrp := (s.setBitTiming ph).dtBrp, dtTseg1 := (s.setBitTiming ph).dtTseg1
        dtTseg2 := (s.setBitTiming ph).dtTseg2, dtSjw := (s.setBitTiming ph).dtSjw } : State).answered [e] ⟨true, 0, 0, 0⟩)
  | refused (mask bits : BitVec 16) : ChannelStep s (.chFor mask) (s.answered [] ⟨false, 3, bits.toNat, 0⟩)
  | added (mask : BitVec 16) (supported : s.badFeatures mask = 0) : ChannelStep s (.chFor mask)
      (({ s with feat := s.feat ||| mask.toNat } : State).answered [.setFeatures (s.feat ||| mask.toNat)]
        ⟨true, 0, zext 32 (s.feat ||| mask.toNat), 0⟩)
  | cleared : ChannelStep s .chFcl
      (({ s with feat := s.cfg.featPerm } : State).answered [.setFeatures s.cfg.featPerm]
        ⟨true, 0, zext 32 s.cfg.featPerm, 0⟩)
  | read (regno : BitVec 16) : ChannelStep s (.chStat regno) (s.answered [] ⟨true, 0, zext 32 (s.statusReg regno), 0⟩)

theorem State.submit_bulkStep {s t : State} {c : InChan} (h : s.submit c = .next t) : BulkStep s (.bcSub c) t := by
  obtain ⟨hnot, rfl⟩ | ⟨-, hi, pad, rfl⟩ := State.submit_next h
  · rw [State.halt_eq_stopped]
    refine .notReady c (Bool.eq_false_iff.2 fun hr => ?_)
    obtain ⟨ha, hi⟩ := (s.readyToSubmit_iff c).1 hr
    exact hnot.elim ha (· hi)
  · rw [State.doSubmit_respond_eq_answered, State.doSubmit_bank]; exact .submitted c hi

/-- The submit action after a completion (R198), which frees the other bank first. -/
theorem State.doSubmit_setOff_other_respond (s : State) (c : InChan) (r : Response) :
    ((s.setOff c (s.act.sel c).other 0).doSubmit c).respond r =
      ({ s with
        bank := (s.padBank c).bank
        off := s.off.upd c (((s.off.sel c).upd (s.act.sel c).other 0).upd (s.act.sel c) (s.paddedLen c (s.actOff c)))
        act := s.act.upd c (s.act.sel c).other } : State).answered
        [.xferStart (.inn c) (s.act.sel c) (s.paddedLen c (s.actOff c))] r := by
  have hact : (s.setOff c (s.act.sel c).other 0).actOff c = s.actOff c := by simp [State.actOff, State.offOf]
  have hlen : (s.setOff c (s.act.sel c).other 0).paddedLen c (s.actOff c) = s.paddedLen c (s.actOff c) := rfl
  rw [State.doSubmit_respond_eq_answered, hact, hlen, State.doSubmit_bank, State.padBank_setOff_other]
  simp only [State.setOff_off, State.setOff_act, PerIn.sel_upd_same, PerIn.upd_upd]
  rfl

theorem State.complete_bulkStep {s t : State} {c : InChan} (onU : s.port = .u) (h : s.complete c = .next t) :
    BulkStep s (.bcTxc c) t := by
  obtain ⟨-, rfl⟩ | ⟨-, -, rfl⟩ := State.complete_next h
  · rw [State.respond_eq_answered]; exact .completed c onU
  · rw [State.doSubmit_setOff_other_respond]; exact .resubmitted c onU

/-- The submit inside a transmit request, the receipt then written to the bank that has become active (R227). -/
theorem State.doSubmit_append_respond {s : State} {c : InChan} (hidle : s.idleOff c = 0) (m : BitVec 16) (bs : List Byte)
    (r : Response) : ((s.doSubmit c).append c m bs).respond r =
      ({ s with
        bank := ((s.padBank c).writeBank c (s.act.sel c).other 0 bs).bank
        off := s.off.upd c
          (((s.off.sel c).upd (s.act.sel c) (s.paddedLen c (s.actOff c))).upd (s.act.sel c).other m.toNat)
        act := s.act.upd c (s.act.sel c).other } : State).answered
        [.xferStart (.inn c) (s.act.sel c) (s.paddedLen c (s.actOff c))] r := by
  have hact : (s.doSubmit c).act.sel c = (s.act.sel c).other := by
    rw [State.doSubmit_eq, PerIn.sel_upd_same]
  have hoff : (s.doSubmit c).actOff c = 0 := by
    simp only [State.actOff, State.offOf, hact]
    rw [State.doSubmit_eq]
    simpa [State.idleOff, State.offOf] using hidle
  have hbank : ((s.doSubmit c).writeBank c (s.act.sel c).other 0 bs).bank
      = ((s.padBank c).writeBank c (s.act.sel c).other 0 bs).bank := by
    rw [State.writeBank_bank, State.doSubmit_bank, State.writeBank_bank]
  rw [State.append_eq, hact, hoff, hbank, State.doSubmit_eq, PerIn.sel_upd_same, PerIn.upd_upd, Nat.zero_add]
  simp only [State.respond, State.answered]
  rfl

/-- `s` with other drop state. -/
def State.withDrop (s : State) (dropped : Nat) (desync : Bool) : State := { s with txDropped := dropped, desync := desync }

theorem State.append_withDrop (s : State) (a : Nat) (b : Bool) (c : InChan) (m : BitVec 16) (bs : List Byte) :
    (s.withDrop a b).append c m bs = (s.append c m bs).withDrop a b := by
  rw [State.append_eq, State.append_eq]
  unfold State.withDrop State.writeBank
  rfl

theorem State.doSubmit_withDrop (s : State) (a : Nat) (b : Bool) (c : InChan) :
    (s.withDrop a b).doSubmit c = (s.doSubmit c).withDrop a b := by
  have hbank : ((s.withDrop a b).padBank c).bank = (s.padBank c).bank := by
    have hneed : (s.withDrop a b).padNeeded c ((s.withDrop a b).actOff c) = s.padNeeded c (s.actOff c) := rfl
    unfold State.padBank
    rw [hneed]
    split <;> rfl
  rw [State.doSubmit_eq, State.doSubmit_eq s, State.doSubmit_bank, hbank]
  unfold State.withDrop
  rfl

theorem State.transmitRequest_channelStep {s t : State} {m : BitVec 16} (onU : s.port = .u)
    (bounded : m.toNat ≤ s.bufIn .dataIn) (h : s.transmitRequest m = .next t) : ChannelStep s (.chTxrq m) t := by
  obtain ⟨slot, rfl⟩ | ⟨-, h⟩ := State.transmitRequest_next h
  · rw [State.emit_respond_eq_answered]; exact .sent m onU slot
  rw [satinc_eq_saturated] at h
  change (s.withDrop (saturated s.cfg s.txDropped) s.literalDesync).placeReceipt m = _ at h
  obtain ⟨fits, rfl⟩ | ⟨-, ready, -, rfl⟩ | ⟨-, -, rfl⟩ := State.placeReceipt_next h
  · rw [State.append_withDrop, State.append_eq, State.respond_eq_answered]
    exact .placed m onU (of_decide_eq_true fits)
  · rw [State.doSubmit_withDrop, State.append_withDrop]
    have hrespond : ∀ (x : State) (a : Nat) (b : Bool) (r : Response),
        (x.withDrop a b).respond r = (x.respond r).withDrop a b := fun _ _ _ _ => rfl
    have hidle : s.idleOff .dataIn = 0 := of_decide_eq_true ready
    rw [hrespond, State.doSubmit_append_respond hidle]
    exact .submittedPlaced m onU bounded hidle
  · rw [State.respond_eq_answered]; exact .lost m onU

theorem State.setBitTiming_channelStep (s : State) (ph : BitPhase) :
    ChannelStep s (.chBt ph) (s.setBitTiming ph) := by
  cases ph <;> exact .timed _ _

theorem State.orFeatures_channelStep (s : State) (mask : BitVec 16) :
    ChannelStep s (.chFor mask) (s.orFeatures mask) := by
  obtain ⟨-, heq⟩ | ⟨-, -, heq⟩ | ⟨supported, -, heq⟩ := s.orFeatures_cases mask
  · rw [heq, State.respond_eq_answered]; exact .refused mask _
  · rw [heq, State.respond_eq_answered]; exact .refused mask _
  · rw [heq, State.emit_respond_eq_answered]; exact .added mask supported

/-! The whole machine -/

/-- The cases of a micro-step of command `i` (R263): it is answered HALTED or ILLEGAL, or its unit carries it out on one of
the unit's ports. -/
inductive MicroStep (s : State) (i : Instr) : State → Prop
  | halted (halted : s.halted = true) : MicroStep s i (s.answered [] ⟨false, 2, s.haltCause.toNat, 0⟩)
  | illegal (running : s.halted = false) (illegal : s.legal i = false) : MicroStep s i (s.answered [] ⟨false, 1, 0, 0⟩)
  | producer {t : State} (running : s.halted = false) (legal : s.legal i = true) (port : s.port = .p)
      (h : ProducerStep s i t) : MicroStep s i t
  | consumer {t : State} (running : s.halted = false) (legal : s.legal i = true) (port : s.port = .t)
      (h : ConsumerStep s i t) : MicroStep s i t
  | bulk {t : State} (running : s.halted = false) (legal : s.legal i = true) (port : s.port = .t ∨ s.port = .u)
      (h : BulkStep s i t) : MicroStep s i t
  | channel {t : State} (running : s.halted = false) (legal : s.legal i = true) (port : s.port = .t ∨ s.port = .u)
      (h : ChannelStep s i t) : MicroStep s i t

theorem State.mem_ports_of_legal {s : State} {i : Instr} (h : s.legal i = true) : s.port ∈ i.ports := by
  rw [State.legal_eq] at h
  simp_all

theorem State.inBounds_of_legal {s : State} {i : Instr} (h : s.legal i = true) : i.inBounds s.cfg = true := by
  rw [State.legal_eq] at h
  simp_all

theorem exec_microStep {i : Instr} {s t : State} (h : exec i s = .next t) : MicroStep s i t := by
  obtain ⟨body, he⟩ := exec_eq_checked i s
  obtain ⟨hh, rfl⟩ | ⟨hh, hl, rfl⟩ | ⟨hh, hl, -⟩ := State.checked_next (he.symm.trans h)
  · rw [State.refuseHalted_eq_answered]; exact .halted hh
  · rw [State.refuseIllegal_eq_answered]; exact .illegal hh hl
  have run : ∀ body, exec i s = s.checked i body → body = .next t := fun body he =>
    (State.checked_legal hh hl body).symm.trans (he.symm.trans h)
  have port := State.mem_ports_of_legal hl
  have bounds := State.inBounds_of_legal hl
  cases i with
  | rbPush r | tsBst code | tsBer code dir phase =>
    exact .producer hh hl (List.mem_singleton.1 port) (State.pushStep_producerStep rfl (run _ rfl))
  | tsRxb n | tsTxb n =>
    exact .producer hh hl (List.mem_singleton.1 port)
      (State.batchStep_producerStep rfl (of_decide_eq_true bounds) (run _ rfl))
  | rbPopb r =>
    cases run _ rfl
    refine .consumer hh hl (List.mem_singleton.1 port) ?_
    obtain ⟨above, heq⟩ | ⟨-, heq⟩ := s.popBegin_cases r
    · rw [heq, State.halt_eq_stopped]; exact .overfull r above
    · rw [heq, State.respond_eq_answered]; exact .begun r
  | rbPopn r =>
    refine .consumer hh hl (List.mem_singleton.1 port) ?_
    obtain ⟨-, rfl⟩ | ⟨inside, e, read, rfl⟩ := State.popNext_next (run _ rfl)
    · rw [State.respond_eq_answered]; exact .atBound r
    · rw [State.respond_eq_answered]; exact .yielded r e inside read
  | rbPopr r =>
    cases run _ rfl
    refine .consumer hh hl (List.mem_singleton.1 port) ?_
    rw [State.popRelease, State.respond_eq_answered]
    exact .released r
  | rbStat r =>
    cases run _ rfl
    refine .consumer hh hl (List.mem_singleton.1 port) ?_
    obtain ⟨above, heq⟩ | ⟨-, heq⟩ := s.ringStat_cases r
    · rw [heq, State.halt_eq_stopped]; exact .overfull r above
    · rw [heq, State.respond_eq_answered]; exact .reported r
  | bcWr c len =>
    cases run _ rfl
    refine .bulk hh hl (by simpa [Instr.ports] using port) ?_
    obtain ⟨fits, heq⟩ | ⟨-, heq⟩ := s.bulkWrite_cases c len
    · rw [heq, State.respond_eq_answered]; exact .appended c len fits
    · rw [heq, State.respond_eq_answered]; exact .noRoom c len
  | bcRdy c =>
    cases run _ rfl
    exact .bulk hh hl (by simpa [Instr.ports] using port) (State.respond_eq_answered _ _ ▸ .reported c)
  | bcSub c => exact .bulk hh hl (by simpa [Instr.ports] using port) (State.submit_bulkStep (run _ rfl))
  | bcTxc c =>
    have onU := List.mem_singleton.1 port
    refine .bulk hh hl (.inr onU) ?_
    obtain ⟨idle, rfl⟩ | ⟨-, hc⟩ := State.guarded_next (run _ rfl)
    · exact .waits c onU (by simpa [State.inFlight] using idle)
    · exact State.complete_bulkStep onU hc
  | bcRxc c n =>
    have onU := List.mem_singleton.1 port
    cases run _ rfl
    refine .bulk hh hl (.inr onU) ?_
    rw [State.receive_eq_answered]
    exact .received c n onU (of_decide_eq_true bounds)
  | chTxrq m =>
    have onU := List.mem_singleton.1 port
    exact .channel hh hl (.inr onU) (State.transmitRequest_channelStep onU (of_decide_eq_true bounds) (run _ rfl))
  | chEn enable =>
    refine .channel hh hl (by simpa [Instr.ports] using port) ?_
    obtain ⟨guard, rfl⟩ | ⟨guard, hset⟩ := State.guarded_next (run _ rfl)
    · cases enable with
      | true => cases guard
      | false => exact .waits (.inr rfl)
    · cases hset
      rw [State.setEnable, State.emit_respond_eq_answered]
      cases enable with
      | true => exact .enabled
      | false => exact .disabled (of_decide_eq_true guard)
  | chBt ph =>
    cases run _ rfl
    exact .channel hh hl (by simpa [Instr.ports] using port) (s.setBitTiming_channelStep ph)
  | chFor mask =>
    cases run _ rfl
    exact .channel hh hl (by simpa [Instr.ports] using port) (s.orFeatures_channelStep mask)
  | chFcl =>
    cases run _ rfl
    exact .channel hh hl (by simpa [Instr.ports] using port) (State.clearFeatures_eq_answered s ▸ .cleared)
  | chRst =>
    refine .channel hh hl (by simpa [Instr.ports] using port) ?_
    obtain ⟨-, rfl⟩ | ⟨guard, hreset⟩ := State.guarded_next (run _ rfl)
    · exact .waits (.inl rfl)
    · cases hreset
      exact State.respond_eq_answered _ _ ▸ .reset (of_decide_eq_true guard)
  | chStat regno =>
    cases run _ rfl
    exact .channel hh hl (by simpa [Instr.ports] using port) (State.respond_eq_answered _ _ ▸ .read regno)

end Sys2Proof.Machine

/-! What every micro-step has in common (10_state section 6, 60_exceptions): its outputs, the fields each port writes, that port
P never waits, and where a halt comes from. Each is read off the cases of `MicroStep`. -/

namespace Sys2Proof.Machine

/-! The columns of the table of writers (R48) -/

/-- What port P does not write: the consumer's registers, the banks, the channel's registers and the drop state. -/
def State.notOfP (s : State) :=
  (s.get, s.cCur, s.cLim, s.bank, s.off, s.act, s.rbank, s.ract, s.en, s.feat, s.nmBt, s.dtBt, s.nmBrp, s.nmTseg1,
    s.nmTseg2, s.nmSjw, s.dtBrp, s.dtTseg1, s.dtTseg2, s.dtSjw, s.txDropped, s.desync)

/-- What only port P writes: the put indices, the slots and its working registers. -/
def State.ofP (s : State) :=
  (s.put, s.slotRx, s.slotTx, s.slotSt, s.pPhase, s.pRing, s.pN, s.pI, s.pT, s.pPut, s.pStored, s.pDropped, s.pRetry,
    s.pDesc, s.pTmp)

theorem ProducerStep.notOfP_eq {s t : State} {i : Instr} (h : ProducerStep s i t) : t.notOfP = s.notOfP := by
  cases h <;> rfl

theorem ConsumerStep.ofP_eq {s t : State} {i : Instr} (h : ConsumerStep s i t) : t.ofP = s.ofP := by cases h <;> rfl

theorem BulkStep.ofP_eq {s t : State} {i : Instr} (h : BulkStep s i t) : t.ofP = s.ofP := by cases h <;> rfl

theorem ChannelStep.ofP_eq {s t : State} {i : Instr} (h : ChannelStep s i t) : t.ofP = s.ofP := by cases h <;> rfl

theorem MicroStep.cfg_eq {s t : State} {i : Instr} (h : MicroStep s i t) : t.cfg = s.cfg := by
  cases h with
  | producer _ _ _ h | consumer _ _ _ h | bulk _ _ _ h | channel _ _ _ h => cases h <;> rfl
  | _ => rfl

/-- The slots returned by a batch never lower the count (R155, R229). -/
theorem State.le_raisedSlots {s : State} (hslots : s.cfg.txSlots < 2 ^ 8) (hle : s.txAvail.toNat ≤ s.cfg.txSlots)
    (n : BitVec 16) : s.txAvail.toNat ≤ (s.raisedSlots n).toNat := by
  rw [State.raisedSlots, BitVec.toNat_ofNat, Nat.mod_eq_of_lt (by omega)]
  omega

theorem ProducerStep.txAvail_le {s t : State} {i : Instr} (h : ProducerStep s i t) (hslots : s.cfg.txSlots < 2 ^ 8)
    (hle : s.txAvail.toNat ≤ s.cfg.txSlots) : s.txAvail.toNat ≤ t.txAvail.toNat := by
  cases h with
  | publishBatch =>
    change _ ≤ (if s.pRing = .txrq then s.raisedSlots s.pN else s.txAvail).toNat
    split
    · exact s.le_raisedSlots hslots hle s.pN
    · exact Nat.le_refl _
  | _ => exact Nat.le_refl _

/-- Settles O52: T's and U's commands do not exist on P, and what P's commands do not write is `ProducerStep.notOfP_eq`. -/
theorem portPWritesOnlyItsState : Obligations.PortPWritesOnlyItsState := by
  intro i s t hp h
  have hmain : t.notOfP = s.notOfP
      ∧ (s.cfg.txSlots < 2 ^ 8 → s.txAvail.toNat ≤ s.cfg.txSlots → s.txAvail.toNat ≤ t.txAvail.toNat) := by
    cases exec_microStep h with
    | halted => exact ⟨rfl, fun _ _ => Nat.le_refl _⟩
    | illegal => exact ⟨rfl, fun _ _ => Nat.le_refl _⟩
    | producer _ _ _ h => exact ⟨h.notOfP_eq, h.txAvail_le⟩
    | consumer _ _ port _ => simp [hp] at port
    | bulk _ _ port _ => simp [hp] at port
    | channel _ _ port _ => simp [hp] at port
  simpa only [State.notOfP, Prod.mk.injEq, and_assoc] using hmain

/-- Outside the soft reset: T leaves the receive banks, the slot count and the drop state, U the consumer's registers. -/
theorem BulkStep.columns {s t : State} {i : Instr} (h : BulkStep s i t) : t.lost = s.lost
    ∧ (s.port = .t → (t.rbank, t.ract, t.txAvail, t.txDropped, t.desync) = (s.rbank, s.ract, s.txAvail, s.txDropped, s.desync))
    ∧ (t.get, t.cCur, t.cLim) = (s.get, s.cCur, s.cLim) := by
  cases h with
  | received c n onU => exact ⟨rfl, fun onT => by simp [onT] at onU, rfl⟩
  | _ => exact ⟨rfl, fun _ => rfl, rfl⟩

theorem ChannelStep.columns {s t : State} {i : Instr} (h : ChannelStep s i t) (hrst : i ≠ .chRst) (hen : i ≠ .chEn false) :
    t.lost = s.lost
    ∧ (s.port = .t → (t.rbank, t.ract, t.txAvail, t.txDropped, t.desync) = (s.rbank, s.ract, s.txAvail, s.txDropped, s.desync))
    ∧ (t.get, t.cCur, t.cLim) = (s.get, s.cCur, s.cLim) := by
  cases h with
  | disabled => exact absurd rfl hen
  | reset => exact absurd rfl hrst
  | sent m onU | placed m onU | submittedPlaced m onU | lost m onU =>
    exact ⟨rfl, fun onT => by simp [onT] at onU, rfl⟩
  | _ => exact ⟨rfl, fun _ => rfl, rfl⟩

/-- Settles O53. -/
theorem portsTUWriteOnlyTheirState : Obligations.PortsTUWriteOnlyTheirState := by
  intro i s t hp h
  have hmain : t.ofP = s.ofP ∧ (i ≠ .chRst → i ≠ .chEn false → t.lost = s.lost
      ∧ (s.port = .t → (t.rbank, t.ract, t.txAvail, t.txDropped, t.desync) = (s.rbank, s.ract, s.txAvail, s.txDropped, s.desync))
      ∧ (s.port = .u → (t.get, t.cCur, t.cLim) = (s.get, s.cCur, s.cLim))) := by
    cases exec_microStep h with
    | halted => exact ⟨rfl, fun _ _ => ⟨rfl, fun _ => rfl, fun _ => rfl⟩⟩
    | illegal => exact ⟨rfl, fun _ _ => ⟨rfl, fun _ => rfl, fun _ => rfl⟩⟩
    | producer _ _ port _ => simp [port] at hp
    | consumer _ _ port h =>
      have hcol : t.lost = s.lost ∧ (t.rbank, t.ract, t.txAvail, t.txDropped, t.desync)
          = (s.rbank, s.ract, s.txAvail, s.txDropped, s.desync) := by cases h <;> exact ⟨rfl, rfl⟩
      exact ⟨h.ofP_eq, fun _ _ => ⟨hcol.1, fun _ => hcol.2, fun onU => by simp [port] at onU⟩⟩
    | bulk _ _ _ h =>
      obtain ⟨hlost, hT, hU⟩ := h.columns
      exact ⟨h.ofP_eq, fun _ _ => ⟨hlost, hT, fun _ => hU⟩⟩
    | channel _ _ _ h =>
      refine ⟨h.ofP_eq, fun hrst hen => ?_⟩
      obtain ⟨hlost, hT, hU⟩ := h.columns hrst hen
      exact ⟨hlost, hT, fun _ => hU⟩
  simpa only [State.ofP, Prod.mk.injEq, and_assoc] using hmain

/-! Outputs (R13) -/

/-- A response has the widths of R13, the value of `RB.STAT` those of R128. -/
def ResponseFits (s : State) (i : Instr) (r : Response) : Prop :=
  r.rdata < 2 ^ s.cfg.frameW
    ∧ ((∀ ring, i ≠ .rbStat ring) → r.val < 2 ^ 32) ∧ (s.Inv → r.val < 2 ^ max 32 (16 + s.cfg.cntW))

theorem ResponseFits.of_val_lt {s : State} {i : Instr} {r : Response} (hdata : r.rdata < 2 ^ s.cfg.frameW)
    (hval : r.val < 2 ^ 32) : ResponseFits s i r :=
  ⟨hdata, fun _ => hval, fun _ => Nat.lt_of_lt_of_le hval (Nat.pow_le_pow_right (by decide) (Nat.le_max_left _ _))⟩

/-- A response without data. -/
theorem ResponseFits.of_no_data {s : State} {i : Instr} {ok : Bool} {err : BitVec 4} {val : Nat} (hval : val < 2 ^ 32) :
    ResponseFits s i ⟨ok, err, val, 0⟩ :=
  .of_val_lt (two_pow_pos _) hval

/-- The command on the port in turn ends with response `r`, after the events `es`. -/
structure EndsWith (s t : State) (es : List Event) (r : Response) : Prop where
  log : t.log = s.log ++ es.map .event ++ [.response s.port r]
  input : t.input = s.input.upd s.port (s.input.sel s.port).tail

/-- The step puts nothing out, or ends its command with one response that fits. -/
def Answers (s : State) (i : Instr) (t : State) : Prop :=
  t.log = s.log ∧ t.input = s.input ∨ ∃ es r, EndsWith s t es r ∧ ResponseFits s i r

theorem cat_16_16_lt (a b : BitVec 16) : cat a.toNat 16 b.toNat < 2 ^ 32 := cat_lt (m := 16) a.isLt b.isLt

theorem bitVec_toNat_lt_32 {n : Nat} (hn : n ≤ 32) (x : BitVec n) : x.toNat < 2 ^ 32 :=
  Nat.lt_of_lt_of_le x.isLt (Nat.pow_le_pow_right (by decide) hn)

theorem ProducerStep.answers {s t : State} {i : Instr} (h : ProducerStep s i t) : Answers s i t := by
  cases h with
  | check | write | latch | walk | drop | store => exact .inl ⟨rfl, rfl⟩
  | publishBatch => exact .inr ⟨_, _, ⟨rfl, rfl⟩, .of_no_data (cat_16_16_lt _ _)⟩
  | _ => exact .inr ⟨_, _, ⟨rfl, rfl⟩, .of_no_data (by decide)⟩

theorem ConsumerStep.answers {s t : State} {i : Instr} (h : ConsumerStep s i t) : Answers s i t := by
  cases h with
  | overfull => exact .inr ⟨_, _, ⟨rfl, rfl⟩, .of_no_data (by decide)⟩
  | begun => exact .inr ⟨_, _, ⟨rfl, rfl⟩, .of_no_data (zext_lt _ _)⟩
  | atBound => exact .inr ⟨_, _, ⟨rfl, rfl⟩, .of_no_data (by decide)⟩
  | yielded => exact .inr ⟨_, _, ⟨rfl, rfl⟩, .of_val_lt (zext_lt _ _) (two_pow_pos 32)⟩
  | released => exact .inr ⟨_, _, ⟨rfl, rfl⟩, .of_no_data (zext_lt _ _)⟩
  | reported r =>
    refine .inr ⟨_, _, ⟨rfl, rfl⟩, two_pow_pos _, fun hne => absurd rfl (hne r), fun hinv => ?_⟩
    have hval : cat (s.lost.sel r) 16 (zext 16 (s.used r)) < 2 ^ (s.cfg.cntW + 16) :=
      cat_lt (hinv.widths.counters.1 r) (zext_lt _ _)
    exact Nat.lt_of_lt_of_le hval (Nat.pow_le_pow_right (by decide) (by omega))

theorem BulkStep.answers {s t : State} {i : Instr} (h : BulkStep s i t) : Answers s i t := by
  cases h with
  | waits => exact .inl ⟨rfl, rfl⟩
  | appended | noRoom | submitted | resubmitted => exact .inr ⟨_, _, ⟨rfl, rfl⟩, .of_no_data (zext_lt _ _)⟩
  | reported => exact .inr ⟨_, _, ⟨rfl, rfl⟩, .of_no_data (cat_lt (m := 16) (zext_lt _ _) (zext_lt _ _))⟩
  | received c n => exact .inr ⟨_, _, ⟨rfl, rfl⟩, .of_no_data (bitVec_toNat_lt_32 (by decide) n)⟩
  | notReady | completed => exact .inr ⟨_, _, ⟨rfl, rfl⟩, .of_no_data (by decide)⟩

theorem ChannelStep.answers {s t : State} {i : Instr} (h : ChannelStep s i t) : Answers s i t := by
  cases h with
  | waits => exact .inl ⟨rfl, rfl⟩
  | added | cleared | read => exact .inr ⟨_, _, ⟨rfl, rfl⟩, .of_no_data (zext_lt _ _)⟩
  | refused mask bits => exact .inr ⟨_, _, ⟨rfl, rfl⟩, .of_no_data (bitVec_toNat_lt_32 (by decide) bits)⟩
  | _ => exact .inr ⟨_, _, ⟨rfl, rfl⟩, .of_no_data (by decide)⟩

theorem MicroStep.answers {s t : State} {i : Instr} (h : MicroStep s i t) : Answers s i t := by
  cases h with
  | halted => exact .inr ⟨[], _, ⟨rfl, rfl⟩, .of_no_data (bitVec_toNat_lt_32 (by decide) s.haltCause)⟩
  | illegal => exact .inr ⟨[], _, ⟨rfl, rfl⟩, .of_no_data (by decide)⟩
  | producer _ _ _ h => exact h.answers
  | consumer _ _ _ h => exact h.answers
  | bulk _ _ _ h => exact h.answers
  | channel _ _ _ h => exact h.answers

/-- Settles O10. -/
theorem oneResponsePerCommand : Obligations.OneResponsePerCommand := by
  intro i s t h
  obtain hnone | ⟨es, r, hends, hdata, hval, hwide⟩ := (exec_microStep h).answers
  · exact .inl hnone
  · exact .inr ⟨es, r, hends.log, hends.input, hdata, hval, hwide⟩

/-- A micro-step takes no command off a queue but the one it answers. -/
theorem MicroStep.input_eq {s t : State} {i : Instr} (h : MicroStep s i t) :
    t.input = s.input ∨ t.input = s.input.upd s.port (s.input.sel s.port).tail := by
  obtain ⟨-, hinput⟩ | ⟨es, r, hends, -⟩ := h.answers
  · exact .inl hinput
  · exact .inr hends.input

/-! The step of the machine -/

/-- What a step can do: nothing, a turn with nothing presented, the answer to a word that is no command, or a micro-step. -/
theorem step_cases {s t : State} (h : step s = .next t) :
    t = s ∨ ∃ q, s.nextPort = some q ∧
      (t = s.select q ∨ (∃ r, t = (s.select q).answered [] r)
        ∨ ∃ cmd i, s.presented q = some cmd ∧ decodeWord cmd.word = .ok i ∧ MicroStep (s.select q) i t) := by
  obtain ⟨-, rfl⟩ | ⟨q, hq, ⟨-, rfl⟩ | ⟨cmd, hcmd, ⟨e, -, rfl⟩ | ⟨i, hi, hx⟩⟩⟩ := step_next h
  · exact .inl rfl
  · exact .inr ⟨q, hq, .inl rfl⟩
  · refine .inr ⟨q, hq, .inr (.inl ?_)⟩
    unfold State.refuseWord
    split
    · exact ⟨_, State.refuseHalted_eq_answered _⟩
    · exact ⟨_, State.refuseIllegal_eq_answered _⟩
  · exact .inr ⟨q, hq, .inr (.inr ⟨cmd, i, hcmd, hi, exec_microStep hx⟩)⟩

/-- Settles O54. -/
theorem parametersNeverChange : Obligations.ParametersNeverChange := by
  intro s t h
  have tail_of_upd : ∀ (q : Port), s.nextPort = some q → t.input = s.input.upd q (s.input.sel q).tail →
      ∀ q', t.input.sel q' = s.input.sel q' ∨ s.nextPort = some q' ∧ t.input.sel q' = (s.input.sel q').tail := by
    intro q hq hinput q'
    rw [hinput, PerPort.sel_upd]
    split
    · rename_i hqq; subst hqq; exact .inr ⟨hq, rfl⟩
    · exact .inl rfl
  obtain rfl | ⟨q, hq, rfl | ⟨r, rfl⟩ | ⟨cmd, i, -, -, hm⟩⟩ := step_cases h
  · exact ⟨rfl, fun _ => .inl rfl⟩
  · exact ⟨rfl, fun _ => .inl rfl⟩
  · exact ⟨rfl, tail_of_upd q hq rfl⟩
  · refine ⟨hm.cfg_eq, ?_⟩
    obtain hinput | hinput := hm.input_eq
    · exact fun q' => .inl (by rw [hinput]; rfl)
    · exact tail_of_upd q hq hinput

/-- Settles O5. -/
theorem stepRunsDecodedCommand : Obligations.StepRunsDecodedCommand := by
  refine ⟨fun s q cmd i hn hp hi => ?runs, fun s hn => ?holds⟩
  case runs =>
    obtain ⟨e, he, -⟩ | ⟨j, hj, hs⟩ := step_of_presented hn hp
    · rw [hi] at he; cases he
    · rw [hi] at hj; cases hj; exact hs
  case holds => simp only [step, hn]

/-! Waiting, refusing and halting -/

/-- A response is one output more. -/
theorem EndsWith.ne {s t : State} {es : List Event} {r : Response} (h : EndsWith s t es r) : t ≠ s := by
  rintro rfl
  have hlen := congrArg List.length h.log
  simp at hlen

theorem ProducerStep.ne {s t : State} {i : Instr} (h : ProducerStep s i t) : t ≠ s := by
  have moves : ∀ {x : BitVec 16}, x + 1 ≠ x ∧ x - 1 ≠ x := fun {x} => by constructor <;> bv_omega
  cases h with
  | check r kind between => exact fun h => by simpa [between] using congrArg State.pPhase h
  | write e kind phase => exact fun h => by simpa [phase] using congrArg State.pPhase h
  | latch ring n retry kind between => exact fun h => by simpa [between] using congrArg State.pPhase h
  | walk => exact fun h => moves.2 (congrArg State.pI h)
  | drop => exact fun h => moves.1 (congrArg State.pI h)
  | store => exact fun h => moves.1 (congrArg State.pI h)
  | _ => exact EndsWith.ne ⟨rfl, rfl⟩

theorem MicroStep.ne_of_port_p {s t : State} {i : Instr} (hp : s.port = .p) (h : MicroStep s i t) : t ≠ s := by
  cases h with
  | halted => exact EndsWith.ne (es := []) ⟨rfl, rfl⟩
  | illegal => exact EndsWith.ne (es := []) ⟨rfl, rfl⟩
  | producer _ _ _ h => exact h.ne
  | consumer _ _ port _ => simp [hp] at port
  | bulk _ _ port _ => simp [hp] at port
  | channel _ _ port _ => simp [hp] at port

/-- Settles O51: every micro-step on P answers or moves P's own registers; only commands of T and U have a guard. -/
theorem producerNeverWaits : Obligations.ProducerNeverWaits :=
  fun _ _ hp h => (exec_microStep h).ne_of_port_p hp rfl

/-- Settles O7. -/
theorem illegalMeaningsChangeNothing : Obligations.IllegalMeaningsChangeNothing := by
  intro i s hh hl
  rw [exec_of_not_legal hh hl, State.refuseIllegal_eq_answered]

/-- Settles O9: whatever is presented, a halted block answers HALTED (`step_of_halted`). -/
theorem haltIsPermanent : Obligations.HaltIsPermanent := by
  intro s hh
  cases hn : s.nextPort with
  | none => exact ⟨s, by simp only [step, hn], rfl⟩
  | some q =>
    cases hp : s.presented q with
    | none => 
      have hps : (s.select q).presented (s.select q).port = none := hp
      exact ⟨s.select q, by simp only [step, hn, State.perform, hps], rfl⟩
    | some cmd => exact ⟨_, step_of_halted hn hp hh, rfl⟩

theorem ProducerStep.halted_eq {s t : State} {i : Instr} (hinv : s.Inv) (h : ProducerStep s i t) : t.halted = s.halted := by
  cases h with
  | pushOverfull r _ above => exact absurd above (Nat.not_lt.2 (hinv.ringFill r))
  | batchOverfull _ phase above => exact absurd above (Nat.not_lt.2 (hinv.batchRoom (.inr (.inl phase))).1)
  | _ => rfl

theorem ConsumerStep.halted_eq {s t : State} {i : Instr} (hinv : s.Inv) (h : ConsumerStep s i t) : t.halted = s.halted := by
  cases h with
  | overfull r above => exact absurd above (Nat.not_lt.2 (hinv.ringFill r))
  | _ => rfl

/-- Settles O59: the invariant excludes the halts of the rings. -/
theorem onlySubmitHalts : Obligations.OnlySubmitHalts := by
  intro i s t hinv hh h ht
  have running : t.halted ≠ s.halted := by simp [hh, ht]
  cases exec_microStep h with
  | halted => exact absurd rfl running
  | illegal => exact absurd rfl running
  | producer _ _ _ h => exact absurd (h.halted_eq hinv) running
  | consumer _ _ _ h => exact absurd (h.halted_eq hinv) running
  | bulk _ _ _ h =>
    cases h with
    | notReady c ready => exact ⟨rfl, c, rfl, ready⟩
    | _ => exact absurd rfl running
  | channel _ _ _ h => cases h <;> exact absurd rfl running

end Sys2Proof.Machine

/-! The invariant is kept (R123, R197, R229, R230). It falls into parts that read different fields, each with a view of the
fields it reads; a micro-step keeps a part by leaving its view as it is, or by a lemma about the operation it performs. -/

namespace Sys2Proof.Machine

/-! The parts of the invariant -/

/-- R123 for every ring, and what the producer's and the consumer's registers add to it. -/
structure State.RingsOk (s : State) : Prop where
  ringFill : ∀ r, s.used r ≤ s.cap r
  cursor : ∀ r, fill s.cfg.idxW (s.cCur.sel r) (s.get.sel r) ≤ fill s.cfg.idxW (s.cLim.sel r) (s.get.sel r)
    ∧ fill s.cfg.idxW (s.cLim.sel r) (s.get.sel r) ≤ s.used r
  pushRoom : s.inPush → s.used s.pRing < s.cap s.pRing
  batchRoom : s.inBatch → fill s.cfg.idxW s.pPut (s.get.sel s.pRing) ≤ s.cap s.pRing
    ∧ s.used s.pRing ≤ fill s.cfg.idxW s.pPut (s.get.sel s.pRing)
  indices : ∀ r, s.put.sel r < 2 ^ s.cfg.idxW ∧ s.get.sel r < 2 ^ s.cfg.idxW ∧ s.cCur.sel r < 2 ^ s.cfg.idxW
    ∧ s.cLim.sel r < 2 ^ s.cfg.idxW
  localPut : s.pPut < 2 ^ s.cfg.idxW

def State.ringView (s : State) := (s.cfg, s.put, s.get, s.cCur, s.cLim, s.pPhase, s.pRing, s.pPut)

theorem State.RingsOk.congr {s t : State} (h : s.RingsOk) (hv : t.ringView = s.ringView) : t.RingsOk := by
  simp only [State.ringView, Prod.mk.injEq] at hv
  obtain ⟨hcfg, hput, hget, hcur, hlim, hphase, hring, hloc⟩ := hv
  obtain ⟨h1, h2, h3, h4, h5, h6⟩ := h
  simp only [State.used, State.cap, State.inPush, State.inBatch] at h1 h2 h3 h4
  constructor <;>
    simp only [State.used, State.cap, State.inPush, State.inBatch, hcfg, hput, hget, hcur, hlim, hphase, hring, hloc] <;>
    assumption

/-- The bytes of the transmit banks are in canonical form and inside the banks with their padding block (R31). -/
def BanksStored (P : Params) (bank : PerIn (PerBank (Memory Byte))) : Prop :=
  ∀ c b, ((bank.sel c).sel b).Wf ∧ ((bank.sel c).sel b).Within (P.bufIn.sel c + P.padLen)

/-- R197 for every in-channel. -/
def State.OffsetsOk (s : State) : Prop := ∀ c, s.actOff c ≤ s.bufIn c ∧ s.idleOff c ≤ s.bufIn c + s.cfg.padLen

/-- The bytes of the receive banks likewise (R36). -/
def RbanksStored (P : Params) (rbank : PerOut (PerBank (Memory Byte))) : Prop :=
  ∀ c b, ((rbank.sel c).sel b).Wf ∧ ((rbank.sel c).sel b).Within (P.bufOut.sel c)

/-- The slots of every ring, in canonical form, inside the ring and of its width. -/
structure State.SlotsOk (s : State) : Prop where
  slotRx : s.slotRx.Wf ∧ s.slotRx.Within (s.cap .rxq)
  slotTx : s.slotTx.Wf ∧ s.slotTx.Within (s.cap .txrq)
  slotSt : s.slotSt.Wf ∧ s.slotSt.Within (s.cap .stq)
  entries : ∀ r k e, s.readSlotAt r k = some e → e < 2 ^ s.entryWidth r

def State.slotView (s : State) := (s.cfg, s.slotRx, s.slotTx, s.slotSt)

theorem State.readSlotAt_congr {s t : State} (hv : t.slotView = s.slotView) (r : Ring) (k : Nat) :
    t.readSlotAt r k = s.readSlotAt r k := by
  simp only [State.slotView, Prod.mk.injEq] at hv
  obtain ⟨-, hrx, htx, hst⟩ := hv
  cases r <;> simp only [State.readSlotAt, hrx, htx, hst]

theorem State.SlotsOk.congr {s t : State} (h : s.SlotsOk) (hv : t.slotView = s.slotView) : t.SlotsOk := by
  have hread := State.readSlotAt_congr hv
  simp only [State.slotView, Prod.mk.injEq] at hv
  obtain ⟨hcfg, hrx, htx, hst⟩ := hv
  have hcap : ∀ r, t.cap r = s.cap r := fun r => by simp only [State.cap, hcfg]
  have hwidth : ∀ r, t.entryWidth r = s.entryWidth r := fun r => by cases r <;> simp only [State.entryWidth, hcfg]
  refine ⟨?_, ?_, ?_, fun r k e he => ?_⟩
  · rw [hrx, hcap]; exact h.slotRx
  · rw [htx, hcap]; exact h.slotTx
  · rw [hst, hcap]; exact h.slotSt
  · rw [hread] at he
    rw [hwidth]
    exact h.entries r k e he

/-- The scratch of a batch and its running timestamp (R39, R41). -/
structure State.ScratchOk (s : State) : Prop where
  scratch : s.pTmp.Wf ∧ s.pTmp.Within s.cfg.batchMax
  times : s.pT < 2 ^ s.cfg.tsW ∧ ∀ k v, s.pTmp.read k = some v → v < 2 ^ s.cfg.tsW

/-- The channel's registers, the counters and the halt pair (R229, R230, R46). -/
structure State.RegsOk (s : State) : Prop where
  slotCount : s.txAvail.toNat ≤ s.cfg.txSlots
  features : s.cfg.featPerm &&& s.feat = s.cfg.featPerm ∧ s.feat &&& (s.cfg.featPerm ||| s.cfg.featConf) = s.feat
  haltPair : s.halted = false ∧ s.haltCause = 0 ∨ s.halted = true ∧ (s.haltCause = 1 ∨ s.haltCause = 2)
  counters : (∀ r, s.lost.sel r < 2 ^ s.cfg.cntW) ∧ s.txDropped < 2 ^ s.cfg.cntW
  bitTimes : s.nmBt < 2 ^ s.cfg.btW ∧ s.dtBt < 2 ^ s.cfg.btW
  featWidth : s.feat < 2 ^ s.cfg.featW

/-- The parameters meet R7 and the masks have their width. -/
def ParamsOk (P : Params) : Prop := P.valid = true ∧ P.featPerm < 2 ^ P.featW ∧ P.featConf < 2 ^ P.featW

theorem State.inv_iff (s : State) : s.Inv ↔ ParamsOk s.cfg ∧ s.RingsOk ∧ s.OffsetsOk ∧ BanksStored s.cfg s.bank
    ∧ RbanksStored s.cfg s.rbank ∧ s.SlotsOk ∧ s.ScratchOk ∧ s.RegsOk := by
  constructor
  · rintro ⟨params, ringFill, cursor, pushRoom, batchRoom, bankRoom, slotCount, features, haltPair, w, st⟩
    exact ⟨⟨params, w.masks⟩, ⟨ringFill, cursor, pushRoom, batchRoom, w.indices, w.localPut⟩, bankRoom, st.bank, st.rbank,
      ⟨st.slotRx, st.slotTx, st.slotSt, w.entries⟩, ⟨st.scratch, w.times⟩,
      ⟨slotCount, features, haltPair, w.counters, w.bitTimes, w.features⟩⟩
  · rintro ⟨⟨params, masks⟩, ri, off, bank, rbank, sl, sc, re⟩
    exact ⟨params, ri.ringFill, ri.cursor, ri.pushRoom, ri.batchRoom, off, re.slotCount, re.features, re.haltPair,
      ⟨masks, ri.indices, ri.localPut, re.counters, sc.times, sl.entries, re.bitTimes, re.featWidth⟩,
      ⟨sl.slotRx, sl.slotTx, sl.slotSt, sc.scratch, bank, rbank⟩⟩

/-! The rings -/

/-- Between commands P's registers claim nothing. -/
theorem State.RingsOk.of_idle {s : State} (hphase : s.pPhase = .idle) (ringFill : ∀ r, s.used r ≤ s.cap r)
    (cursor : ∀ r, fill s.cfg.idxW (s.cCur.sel r) (s.get.sel r) ≤ fill s.cfg.idxW (s.cLim.sel r) (s.get.sel r)
      ∧ fill s.cfg.idxW (s.cLim.sel r) (s.get.sel r) ≤ s.used r)
    (indices : ∀ r, s.put.sel r < 2 ^ s.cfg.idxW ∧ s.get.sel r < 2 ^ s.cfg.idxW ∧ s.cCur.sel r < 2 ^ s.cfg.idxW
      ∧ s.cLim.sel r < 2 ^ s.cfg.idxW) (localPut : s.pPut < 2 ^ s.cfg.idxW) : s.RingsOk :=
  ⟨ringFill, cursor, fun h => by simp [State.inPush, hphase] at h, fun h => by simp [State.inBatch, hphase] at h,
    indices, localPut⟩

/-- A batch in progress keeps its room when only its phase moves on. -/
theorem State.RingsOk.batch_moves {s : State} (h : s.RingsOk) (hb : s.inBatch) {ph : Phase}
    (hph : ph ≠ .pushWr ∧ ph ≠ .pushPub) : ({ s with pPhase := ph } : State).RingsOk :=
  ⟨h.ringFill, h.cursor, fun hp => by simp [State.inPush, hph] at hp, fun _ => h.batchRoom hb, h.indices, h.localPut⟩

/-- A later put index of ring r (R124, R155): the fill level grows, the cursors stay behind it. -/
theorem State.RingsOk.publish {s : State} (h : s.RingsOk) {r : Ring} {p : Nat} (hp : p < 2 ^ s.cfg.idxW)
    (hcap : fill s.cfg.idxW p (s.get.sel r) ≤ s.cap r) (hle : s.used r ≤ fill s.cfg.idxW p (s.get.sel r)) :
    ({ s with put := s.put.upd r p, pPhase := .idle } : State).RingsOk := by
  have hused : ∀ r', ({ s with put := s.put.upd r p, pPhase := .idle } : State).used r'
      = if r' = r then fill s.cfg.idxW p (s.get.sel r) else s.used r' := by
    intro r'
    simp only [State.used, PerRing.sel_upd]
    split
    · rename_i hr; rw [hr]
    · rfl
  refine .of_idle rfl (fun r' => ?_) (fun r' => ⟨(h.cursor r').1, (h.cursor r').2.trans ?_⟩) (fun r' => ?_) h.localPut
  · rw [hused]
    split
    · rename_i hr; subst hr; exact hcap
    · exact h.ringFill r'
  · rw [hused]
    split
    · rename_i hr; subst hr; exact hle
    · exact Nat.le_refl _
  · refine ⟨?_, (h.indices r').2⟩
    simp only [PerRing.sel_upd]
    split
    · exact hp
    · exact (h.indices r').1

/-- The index behind a fill level below the capacity has the next fill level (R7 leaves room above it). -/
theorem State.fill_addW_one_of_lt {s : State} (hvalid : s.cfg.valid = true) {r : Ring} {p : Nat} (hp : p < 2 ^ s.cfg.idxW)
    (hg : s.get.sel r < 2 ^ s.cfg.idxW) (hlt : fill s.cfg.idxW p (s.get.sel r) < s.cap r) :
    fill s.cfg.idxW (addW s.cfg.idxW p 1) (s.get.sel r) = fill s.cfg.idxW p (s.get.sel r) + 1 :=
  fill_addW_one hp hg (Nat.lt_of_le_of_lt hlt (capValid_lt (Params.capValid_of_valid hvalid r)))

theorem ProducerStep.ringsOk {s t : State} {i : Instr} (hvalid : s.cfg.valid = true) (h : s.RingsOk)
    (hs : ProducerStep s i t) : t.RingsOk := by
  cases hs with
  | pushOverfull | full | batchOverfull => exact h.congr rfl
  | check r _ _ room =>
    exact ⟨h.ringFill, h.cursor, fun _ => room, fun hb => by simp [State.inBatch] at hb, h.indices, h.localPut⟩
  | write e _ phase =>
    exact ⟨h.ringFill, h.cursor, fun _ => h.pushRoom (.inl phase), fun hb => by simp [State.inBatch] at hb, h.indices,
      h.localPut⟩
  | publish _ phase =>
    have hlt := h.pushRoom (.inr phase)
    have hfill := State.fill_addW_one_of_lt hvalid (h.indices s.pRing).1 (h.indices s.pRing).2.1 hlt
    refine (h.publish (r := s.pRing) (addW_lt _ (s.put.sel s.pRing) 1) ?_ ?_).congr rfl
    · rw [hfill]; exact hlt
    · rw [hfill]; exact Nat.le_succ _
  | latchEmpty ring _ _ between =>
    exact .of_idle between h.ringFill h.cursor h.indices (h.indices ring).1
  | latch ring n retry =>
    exact ⟨h.ringFill, h.cursor, fun hp => by simp [State.inPush] at hp,
      fun _ => ⟨h.ringFill ring, Nat.le_refl _⟩, h.indices, (h.indices ring).1⟩
  | walk _ phase =>
    exact (h.batch_moves (.inl phase) (ph := if s.pI - 1 = 0 then .pass2 else .pass1) (by split <;> decide)).congr rfl
  | drop _ phase =>
    exact (h.batch_moves (.inr (.inl phase)) (ph := if s.pI + 1 = s.pN then .batchPub else .pass2)
      (by split <;> decide)).congr rfl
  | store v e _ phase room =>
    obtain ⟨hcap, hle⟩ := h.batchRoom (.inr (.inl phase))
    have hfill := State.fill_addW_one_of_lt hvalid h.localPut (h.indices s.pRing).2.1 room
    have hmoved : ({ s with pPut := addW s.cfg.idxW s.pPut 1 } : State).RingsOk :=
      ⟨h.ringFill, h.cursor, h.pushRoom, fun _ => by rw [hfill]; exact ⟨room, Nat.le_succ_of_le hle⟩, h.indices,
        addW_lt _ _ _⟩
    exact (hmoved.batch_moves (.inr (.inl phase)) (ph := if s.pI + 1 = s.pN then .batchPub else .pass2)
      (by split <;> decide)).congr rfl
  | publishBatch _ phase =>
    obtain ⟨hcap, hle⟩ := h.batchRoom (.inr (.inr phase))
    exact (h.publish h.localPut hcap hle).congr rfl

/-- The consumer's registers of ring r moved to places between `get` and `put` (R125, R126). -/
theorem State.RingsOk.move_cursors {s : State} (h : s.RingsOk) {r : Ring} {cur lim : Nat} (hcur : cur < 2 ^ s.cfg.idxW)
    (hlim : lim < 2 ^ s.cfg.idxW) (hle : fill s.cfg.idxW cur (s.get.sel r) ≤ fill s.cfg.idxW lim (s.get.sel r))
    (hused : fill s.cfg.idxW lim (s.get.sel r) ≤ s.used r) :
    ({ s with cCur := s.cCur.upd r cur, cLim := s.cLim.upd r lim } : State).RingsOk := by
  refine ⟨h.ringFill, fun r' => ?_, h.pushRoom, h.batchRoom, fun r' => ?_, h.localPut⟩
  · simp only [PerRing.sel_upd]
    split
    · rename_i hr; subst hr; exact ⟨hle, hused⟩
    · exact h.cursor r'
  · obtain ⟨hp, hg, hc, hl⟩ := h.indices r'
    simp only [PerRing.sel_upd]
    split
    · exact ⟨hp, hg, hcur, hlim⟩
    · exact ⟨hp, hg, hc, hl⟩

/-- A release (R127): the fill levels of ring r fall by that of its cursor. -/
theorem State.RingsOk.used_release {s : State} (h : s.RingsOk) (r r' : Ring) :
    ({ s with get := s.get.upd r (s.cCur.sel r) } : State).used r' =
      s.used r' - if r' = r then fill s.cfg.idxW (s.cCur.sel r) (s.get.sel r) else 0 := by
  obtain ⟨hp, hg, hc, -⟩ := h.indices r
  simp only [State.used, PerRing.sel_upd]
  split
  · rename_i hr
    subst hr
    exact fill_release hp hc hg ((h.cursor r').1.trans (h.cursor r').2)
  · rfl

theorem State.RingsOk.release {s : State} (h : s.RingsOk) (r : Ring) :
    ({ s with get := s.get.upd r (s.cCur.sel r) } : State).RingsOk := by
  have hused := h.used_release r
  obtain ⟨hp, hg, hc, hl⟩ := h.indices r
  obtain ⟨hcl, hlu⟩ := h.cursor r
  refine ⟨fun r' => ?_, fun r' => ?_, fun hpush => ?_, fun hb => ?_, fun r' => ?_, h.localPut⟩
  · rw [hused]
    exact (Nat.sub_le _ _).trans (h.ringFill r')
  · rw [hused]
    simp only [PerRing.sel_upd]
    split
    · rename_i hr
      subst hr
      rw [fill_self, fill_release hl hc hg hcl]
      exact ⟨Nat.zero_le _, Nat.sub_le_sub_right hlu _⟩
    · exact h.cursor r'
  · rw [hused]
    exact Nat.lt_of_le_of_lt (Nat.sub_le _ _) (h.pushRoom hpush)
  · obtain ⟨hcap, hle⟩ := h.batchRoom hb
    rw [hused]
    simp only [PerRing.sel_upd]
    split
    · rename_i hr
      rw [hr] at hcap hle
      rw [hr, fill_release h.localPut hc hg (hcl.trans (hlu.trans hle))]
      exact ⟨(Nat.sub_le _ _).trans hcap, Nat.sub_le_sub_right hle _⟩
    · exact ⟨hcap, hle⟩
  · obtain ⟨hp', hg', hc', hl'⟩ := h.indices r'
    refine ⟨hp', ?_, hc', hl'⟩
    simp only [PerRing.sel_upd]
    split
    · exact hc
    · exact hg'

theorem ConsumerStep.ringsOk {s t : State} {i : Instr} (h : s.RingsOk) (hs : ConsumerStep s i t) : t.RingsOk := by
  cases hs with
  | overfull | atBound | reported => exact h.congr rfl
  | begun r =>
    obtain ⟨hp, hg, -, -⟩ := h.indices r
    exact (h.move_cursors hg hp (by rw [fill_self]; exact Nat.zero_le _) (Nat.le_refl _)).congr rfl
  | yielded r e inside =>
    obtain ⟨-, hg, hc, hl⟩ := h.indices r
    obtain ⟨hcl, hlu⟩ := h.cursor r
    have hlt : fill s.cfg.idxW (s.cCur.sel r) (s.get.sel r) < fill s.cfg.idxW (s.cLim.sel r) (s.get.sel r) :=
      Nat.lt_of_le_of_ne hcl fun heq => inside (fill_inj hc hl hg heq)
    have hnext := fill_addW_one hc hg (Nat.lt_of_le_of_lt hlt (fill_lt _ _ _))
    have hmoved := h.move_cursors (r := r) (addW_lt s.cfg.idxW (s.cCur.sel r) 1) hl (by rw [hnext]; exact hlt) hlu
    have hlim : s.cLim.upd r (s.cLim.sel r) = s.cLim := PerRing.ext_sel fun r' => by
      rw [PerRing.sel_upd]; split <;> simp_all
    rw [hlim] at hmoved
    exact hmoved.congr rfl
  | released r => exact (h.release r).congr rfl

/-- After the soft reset every ring is empty (R281). -/
theorem State.RingsOk.afterSoftReset {s : State} (h : s.RingsOk) (between : s.pPhase = .idle) :
    s.afterSoftReset.RingsOk := by
  have hempty : ∀ r, s.afterSoftReset.used r = 0 := fun r => fill_self _ _
  refine .of_idle between (fun r => by rw [hempty]; exact Nat.zero_le _) (fun r => ?_) (fun r => ?_) h.localPut
  · rw [hempty]
    exact ⟨Nat.le_refl _, (fill_self s.cfg.idxW (s.put.sel r)).le⟩
  · have hp := (h.indices r).1
    exact ⟨hp, hp, hp, hp⟩

theorem ChannelStep.ringsOk {s t : State} {i : Instr} (h : s.RingsOk) (hs : ChannelStep s i t) : t.RingsOk := by
  cases hs with
  | disabled between => exact (h.afterSoftReset between).congr rfl
  | reset between => exact (h.afterSoftReset between).congr rfl
  | _ => exact h.congr rfl

theorem BulkStep.ringsOk {s t : State} {i : Instr} (h : s.RingsOk) (hs : BulkStep s i t) : t.RingsOk := by
  cases hs <;> exact h.congr rfl

/-! The slots and the scratch of port P -/

theorem State.slotIndex_lt {s : State} (hvalid : s.cfg.valid = true) (r : Ring) (i : Nat) : s.slotIndex r i < s.cap r :=
  Nat.mod_lt _ (capValid_pos (Params.capValid_of_valid hvalid r))

theorem State.SlotsOk.writeSlot {s : State} (hvalid : s.cfg.valid = true) (h : s.SlotsOk) (r : Ring) (i e : Nat) :
    (s.writeSlot r i e).SlotsOk := by
  have hin := State.slotIndex_lt hvalid r i
  have hentries : ∀ r' k v, (s.writeSlot r i e).readSlotAt r' k = some v → v < 2 ^ s.entryWidth r' := by
    intro r' k v hv
    rw [State.readSlotAt_writeSlot] at hv
    split at hv
    · rename_i hr
      obtain rfl := Option.some.inj hv
      rw [hr.1]
      exact storedForm_lt s r e
    · exact h.entries r' k v hv
  cases r with
  | rxq => exact ⟨⟨Memory.wf_write h.slotRx.1 _ _, Memory.within_write h.slotRx.2 hin⟩, h.slotTx, h.slotSt, hentries⟩
  | txrq => exact ⟨h.slotRx, ⟨Memory.wf_write h.slotTx.1 _ _, Memory.within_write h.slotTx.2 hin⟩, h.slotSt, hentries⟩
  | stq => exact ⟨h.slotRx, h.slotTx, ⟨Memory.wf_write h.slotSt.1 _ _, Memory.within_write h.slotSt.2 hin⟩, hentries⟩

theorem ProducerStep.slotsOk {s t : State} {i : Instr} (hvalid : s.cfg.valid = true) (h : s.SlotsOk)
    (hs : ProducerStep s i t) : t.SlotsOk := by
  cases hs with
  | write e => exact (h.writeSlot hvalid s.pRing (s.put.sel s.pRing) e).congr (by rw [State.writeSlot_eq]; rfl)
  | store v e => exact (h.writeSlot hvalid s.pRing s.pPut e).congr (by rw [State.writeSlot_eq]; rfl)
  | _ => exact h.congr rfl

theorem ProducerStep.scratchOk {s t : State} {i : Instr} (h : s.ScratchOk) (hs : ProducerStep s i t) : t.ScratchOk := by
  cases hs with
  | latchEmpty | latch => exact ⟨h.scratch, Nat.mod_lt _ (two_pow_pos _), h.times.2⟩
  | walk _ _ inScratch =>
    refine ⟨⟨Memory.wf_write h.scratch.1 _ _, Memory.within_write h.scratch.2 inScratch⟩, subW_lt _ _ _, fun k v hv => ?_⟩
    rw [Memory.read_write] at hv
    split at hv
    · exact Option.some.inj hv ▸ h.times.1
    · exact h.times.2 k v hv
  | _ => exact ⟨h.scratch, h.times⟩

/-! The banks -/

theorem BanksStored.writeRun {P : Params} {bank : PerIn (PerBank (Memory Byte))} (h : BanksStored P bank) {c : InChan}
    {k : Nat} {bytes : List Byte} (hin : k + bytes.length ≤ P.bufIn.sel c + P.padLen) (b : Bank) :
    BanksStored P (bank.upd c ((bank.sel c).upd b (((bank.sel c).sel b).writeRun k bytes))) := by
  intro c' b'
  rw [PerIn.sel_upd]
  split
  · rename_i hc
    subst hc
    rw [PerBank.sel_upd]
    split
    · exact ⟨Memory.wf_writeRun (h c' b).1 _ _, Memory.within_writeRun (h c' b).2 hin⟩
    · exact h c' b'
  · exact h c' b'

theorem BanksStored.padBank {s : State} (h : BanksStored s.cfg s.bank) {c : InChan} (hle : s.actOff c ≤ s.bufIn c) :
    BanksStored s.cfg (s.padBank c).bank := by
  unfold State.padBank
  split
  · rw [State.writeBank_bank]
    exact h.writeRun (by rw [List.length_replicate]; exact Nat.add_le_add_right hle _) _
  · exact h

theorem RbanksStored.writeRun {P : Params} {rbank : PerOut (PerBank (Memory Byte))} (h : RbanksStored P rbank) {c : OutChan}
    {bytes : List Byte} (hin : bytes.length ≤ P.bufOut.sel c) (b : Bank) :
    RbanksStored P (rbank.upd c ((rbank.sel c).upd b (((rbank.sel c).sel b).writeRun 0 bytes))) := by
  intro c' b'
  rw [PerOut.sel_upd]
  split
  · rename_i hc
    subst hc
    rw [PerBank.sel_upd]
    split
    · exact ⟨Memory.wf_writeRun (h c' b).1 _ _, Memory.within_writeRun (h c' b).2 (by rwa [Nat.zero_add])⟩
    · exact h c' b'
  · exact h c' b'

/-- Other offsets and another active bank of in-channel c, within their bounds. -/
theorem State.OffsetsOk.upd {s t : State} (h : s.OffsetsOk) {c : InChan} {off : PerBank Nat} {act : Bank}
    (hact : off.sel act ≤ s.bufIn c) (hidle : off.sel act.other ≤ s.bufIn c + s.cfg.padLen)
    (ht : (t.cfg, t.off, t.act) = (s.cfg, s.off.upd c off, s.act.upd c act)) : t.OffsetsOk := by
  simp only [Prod.mk.injEq] at ht
  obtain ⟨hcfg, hoff, hact'⟩ := ht
  intro c'
  simp only [State.actOff, State.idleOff, State.offOf, State.bufIn, hcfg, hoff, hact', PerIn.sel_upd]
  split
  · rename_i hc; subst hc; exact ⟨hact, hidle⟩
  · exact h c'

theorem PerIn.upd_sel {α : Type} (x : PerIn α) (c : InChan) : x.upd c (x.sel c) = x := by cases c <;> rfl

/-- Other offsets of in-channel c, the active bank as it was. -/
theorem State.OffsetsOk.upd_off {s t : State} (h : s.OffsetsOk) {c : InChan} {off : PerBank Nat}
    (hact : off.sel (s.act.sel c) ≤ s.bufIn c) (hidle : off.sel (s.act.sel c).other ≤ s.bufIn c + s.cfg.padLen)
    (ht : (t.cfg, t.off, t.act) = (s.cfg, s.off.upd c off, s.act)) : t.OffsetsOk :=
  h.upd hact hidle (by rw [ht, PerIn.upd_sel])

theorem State.OffsetsOk.congr {s t : State} (h : s.OffsetsOk) (ht : (t.cfg, t.off, t.act) = (s.cfg, s.off, s.act)) :
    t.OffsetsOk :=
  h.upd_off (h .cmdIn).1 (h .cmdIn).2 (by rw [ht, PerIn.upd_sel])

/-- The padding block has its place behind the active bank's offset (R31, R195). -/
theorem State.paddedLen_le {s : State} {c : InChan} (hle : s.actOff c ≤ s.bufIn c) :
    s.paddedLen c (s.actOff c) ≤ s.bufIn c + s.cfg.padLen := by
  unfold State.paddedLen
  split <;> omega

theorem BulkStep.offsetsOk {s t : State} {i : Instr} (h : s.OffsetsOk) (hs : BulkStep s i t) : t.OffsetsOk := by
  cases hs with
  | appended c len fits =>
    refine h.upd_off ?_ ?_ rfl
    · simpa using fits
    · simpa [State.idleOff, State.offOf] using (h c).2
  | submitted c idle =>
    have hidle : (s.off.sel c).sel (s.act.sel c).other = 0 := idle
    refine h.upd ?_ ?_ rfl
    · simp [hidle]
    · simpa using State.paddedLen_le (h c).1
  | completed c =>
    refine h.upd_off ?_ ?_ rfl
    · simpa [State.actOff, State.offOf] using (h c).1
    · simp
  | resubmitted c =>
    refine h.upd ?_ ?_ rfl
    · simp
    · simpa using State.paddedLen_le (h c).1
  | _ => exact h.congr rfl

theorem BulkStep.banksStored {s t : State} {i : Instr} (hoff : s.OffsetsOk) (h : BanksStored s.cfg s.bank)
    (hs : BulkStep s i t) : BanksStored s.cfg t.bank := by
  cases hs with
  | appended c len fits =>
    exact h.writeRun (by rw [State.wBytes, busBytes_length]; exact Nat.le_add_right_of_le fits) _
  | submitted c | resubmitted c => exact h.padBank (hoff c).1
  | _ => exact h

theorem BulkStep.rbanksStored {s t : State} {i : Instr} (h : RbanksStored s.cfg s.rbank) (hs : BulkStep s i t) :
    RbanksStored s.cfg t.rbank := by
  cases hs with
  | received c n _ bounded => exact h.writeRun (by rw [State.wBytes, busBytes_length]; exact bounded) _
  | _ => exact h

theorem ChannelStep.offsetsOk {s t : State} {i : Instr} (h : s.OffsetsOk) (hs : ChannelStep s i t) : t.OffsetsOk := by
  cases hs with
  | placed m _ fits =>
    refine h.upd_off (c := .dataIn)
      (off := (s.off.sel .dataIn).upd (s.act.sel .dataIn) (s.actOff .dataIn + m.toNat)) ?_ ?_ rfl
    · simpa using fits
    · simpa [State.idleOff, State.offOf] using (h .dataIn).2
  | submittedPlaced m _ bounded idle =>
    refine h.upd (c := .dataIn) (act := (s.act.sel .dataIn).other)
      (off := ((s.off.sel .dataIn).upd (s.act.sel .dataIn) (s.paddedLen .dataIn (s.actOff .dataIn))).upd
        (s.act.sel .dataIn).other m.toNat) ?_ ?_ rfl
    · simpa using bounded
    · simpa using State.paddedLen_le (h .dataIn).1
  | disabled | reset => exact fun c => by cases c <;> exact ⟨Nat.zero_le _, Nat.zero_le _⟩
  | _ => exact h.congr rfl

theorem ChannelStep.banksStored {s t : State} {i : Instr} (hoff : s.OffsetsOk) (h : BanksStored s.cfg s.bank)
    (hs : ChannelStep s i t) : BanksStored s.cfg t.bank := by
  cases hs with
  | placed m _ fits =>
    exact h.writeRun (by rw [State.receipt, busBytes_length]; exact Nat.le_add_right_of_le fits) _
  | submittedPlaced m _ bounded =>
    exact (h.padBank (hoff .dataIn).1).writeRun
      (by rw [State.receipt, busBytes_length, Nat.zero_add]; exact Nat.le_add_right_of_le bounded) _
  | _ => exact h

/-! The registers of the channel -/

theorem State.raisedSlots_le (s : State) (n : BitVec 16) : (s.raisedSlots n).toNat ≤ s.cfg.txSlots := by
  rw [State.raisedSlots, BitVec.toNat_ofNat]
  exact (Nat.mod_le _ _).trans (Nat.min_le_left _ _)

theorem lost_upd_lt {P : Params} {lost : PerRing Nat} (h : ∀ r, lost.sel r < 2 ^ P.cntW) (r r' : Ring) :
    (lost.upd r (saturated P (lost.sel r))).sel r' < 2 ^ P.cntW := by
  rw [PerRing.sel_upd]
  split
  · exact saturated_lt (h r)
  · exact h r'

theorem ProducerStep.regsOk {s t : State} {i : Instr} (h : s.RegsOk) (hs : ProducerStep s i t) : t.RegsOk := by
  cases hs with
  | pushOverfull | batchOverfull =>
    exact ⟨h.slotCount, h.features, .inr ⟨rfl, .inl rfl⟩, h.counters, h.bitTimes, h.featWidth⟩
  | full r | drop =>
    exact ⟨h.slotCount, h.features, h.haltPair, ⟨lost_upd_lt h.counters.1 _, h.counters.2⟩, h.bitTimes, h.featWidth⟩
  | publishBatch =>
    refine ⟨?_, h.features, h.haltPair, h.counters, h.bitTimes, h.featWidth⟩
    change (if s.pRing = .txrq then s.raisedSlots s.pN else s.txAvail).toNat ≤ _
    split
    · exact s.raisedSlots_le s.pN
    · exact h.slotCount
  | _ => exact ⟨h.slotCount, h.features, h.haltPair, h.counters, h.bitTimes, h.featWidth⟩

theorem ConsumerStep.regsOk {s t : State} {i : Instr} (h : s.RegsOk) (hs : ConsumerStep s i t) : t.RegsOk := by
  cases hs with
  | overfull => exact ⟨h.slotCount, h.features, .inr ⟨rfl, .inl rfl⟩, h.counters, h.bitTimes, h.featWidth⟩
  | _ => exact ⟨h.slotCount, h.features, h.haltPair, h.counters, h.bitTimes, h.featWidth⟩

theorem BulkStep.regsOk {s t : State} {i : Instr} (h : s.RegsOk) (hs : BulkStep s i t) : t.RegsOk := by
  cases hs with
  | notReady => exact ⟨h.slotCount, h.features, .inr ⟨rfl, .inr rfl⟩, h.counters, h.bitTimes, h.featWidth⟩
  | _ => exact ⟨h.slotCount, h.features, h.haltPair, h.counters, h.bitTimes, h.featWidth⟩

/-- A number whose bits are among those of one of `n` bits has `n` bits. -/
theorem lt_two_pow_of_and_eq {x m n : Nat} (h : x &&& m = x) (hm : m < 2 ^ n) : x < 2 ^ n := by
  rw [← h]
  exact Nat.lt_of_le_of_lt Nat.and_le_right hm

/-- A request without unsupported bits has its bits among those of the two masks (R223). -/
theorem State.and_masks_of_supported {s : State} {mask : BitVec 16} (h : s.badFeatures mask = 0) :
    mask.toNat &&& (s.cfg.featPerm ||| s.cfg.featConf) = mask.toNat := by
  refine Nat.eq_of_testBit_eq fun k => ?_
  rw [Nat.testBit_and]
  by_cases hk : k < 16
  · have hbit := congrArg (fun y => y.getLsbD k) h
    simp only [State.badFeatures, BitVec.getLsbD_and, BitVec.getLsbD_not, BitVec.getLsbD_ofNat, hk] at hbit
    cases hm : mask.toNat.testBit k with
    | false => rfl
    | true =>
      have hor : s.cfg.featPerm.testBit k = false → s.cfg.featConf.testBit k = true := by
        simpa [BitVec.getLsbD, hm] using hbit
      cases hp : s.cfg.featPerm.testBit k <;> simp_all
  · have hnone : mask.toNat.testBit k = false := mask.getLsbD_of_ge k (by omega)
    rw [hnone, Bool.false_and]

theorem or_and_absorb (x y : Nat) : x ||| (x &&& y) = x :=
  Nat.eq_of_testBit_eq fun k => by cases h : x.testBit k <;> simp [h]

/-- A supported request keeps the mask between the permanent and the supported features (R230). -/
theorem State.RegsOk.add_features {s : State} (hcfg : ParamsOk s.cfg) (h : s.RegsOk) {mask : BitVec 16}
    (supported : s.badFeatures mask = 0) :
    s.cfg.featPerm &&& (s.feat ||| mask.toNat) = s.cfg.featPerm
      ∧ (s.feat ||| mask.toNat) &&& (s.cfg.featPerm ||| s.cfg.featConf) = s.feat ||| mask.toNat
      ∧ s.feat ||| mask.toNat < 2 ^ s.cfg.featW := by
  obtain ⟨hperm, hsub⟩ := h.features
  have hboth : (s.feat ||| mask.toNat) &&& (s.cfg.featPerm ||| s.cfg.featConf) = s.feat ||| mask.toNat := by
    rw [Nat.and_or_distrib_right, hsub, State.and_masks_of_supported supported]
  refine ⟨?_, hboth, lt_two_pow_of_and_eq hboth (Nat.or_lt_two_pow hcfg.2.1 hcfg.2.2)⟩
  rw [Nat.and_or_distrib_left, hperm]
  exact or_and_absorb _ _

theorem State.setBitTiming_lt (s : State) (ph : BitPhase) (h : s.nmBt < 2 ^ s.cfg.btW ∧ s.dtBt < 2 ^ s.cfg.btW) :
    (s.setBitTiming ph).nmBt < 2 ^ s.cfg.btW ∧ (s.setBitTiming ph).dtBt < 2 ^ s.cfg.btW := by
  cases ph with
  | nominal => exact ⟨Nat.mod_lt _ (two_pow_pos _), h.2⟩
  | data => exact ⟨h.1, Nat.mod_lt _ (two_pow_pos _)⟩

/-- The permanent features alone (R224, R281). -/
theorem ParamsOk.featPerm {P : Params} (h : ParamsOk P) :
    (P.featPerm &&& P.featPerm = P.featPerm ∧ P.featPerm &&& (P.featPerm ||| P.featConf) = P.featPerm)
      ∧ P.featPerm < 2 ^ P.featW := by
  refine ⟨⟨Nat.and_self _, ?_⟩, h.2.1⟩
  rw [Nat.and_or_distrib_left, Nat.and_self]
  exact or_and_absorb _ _

theorem State.RegsOk.afterSoftReset {s : State} (hcfg : ParamsOk s.cfg) (h : s.RegsOk) : s.afterSoftReset.RegsOk := by
  obtain ⟨hfeat, hwidth⟩ := hcfg.featPerm
  refine ⟨?_, hfeat, h.haltPair, ⟨fun r => ?_, two_pow_pos _⟩, h.bitTimes, hwidth⟩
  · change (BitVec.ofNat 8 s.cfg.txSlots).toNat ≤ _
    rw [BitVec.toNat_ofNat]
    exact Nat.mod_le _ _
  · cases r <;> exact two_pow_pos _

theorem ChannelStep.regsOk {s t : State} {i : Instr} (hcfg : ParamsOk s.cfg) (h : s.RegsOk) (hs : ChannelStep s i t) :
    t.RegsOk := by
  have hdropped : saturated s.cfg s.txDropped < 2 ^ s.cfg.cntW := saturated_lt h.counters.2
  cases hs with
  | sent m _ slot =>
    refine ⟨?_, h.features, h.haltPair, h.counters, h.bitTimes, h.featWidth⟩
    have hle : (s.txAvail - 1).toNat ≤ s.txAvail.toNat := by bv_omega
    exact hle.trans h.slotCount
  | placed | submittedPlaced | lost =>
    exact ⟨h.slotCount, h.features, h.haltPair, ⟨h.counters.1, hdropped⟩, h.bitTimes, h.featWidth⟩
  | disabled | reset =>
    obtain ⟨h1, h2, h3, h4, h5, h6⟩ := h.afterSoftReset hcfg
    exact ⟨h1, h2, h3, h4, h5, h6⟩
  | timed ph => exact ⟨h.slotCount, h.features, h.haltPair, h.counters, s.setBitTiming_lt ph h.bitTimes, h.featWidth⟩
  | added mask supported =>
    obtain ⟨hperm, hsub, hwidth⟩ := h.add_features hcfg supported
    exact ⟨h.slotCount, ⟨hperm, hsub⟩, h.haltPair, h.counters, h.bitTimes, hwidth⟩
  | cleared =>
    obtain ⟨hfeat, hwidth⟩ := hcfg.featPerm
    exact ⟨h.slotCount, hfeat, h.haltPair, h.counters, h.bitTimes, hwidth⟩
  | _ => exact ⟨h.slotCount, h.features, h.haltPair, h.counters, h.bitTimes, h.featWidth⟩

/-! The whole invariant -/

theorem State.Inv.answered {s : State} (h : s.Inv) (es : List Event) (r : Response) : (s.answered es r).Inv :=
  h.ports _ _ s.turns s.ticks s.port

theorem ProducerStep.inv {s t : State} {i : Instr} (h : s.Inv) (hs : ProducerStep s i t) : t.Inv := by
  obtain ⟨cfg, rings, offsets, banks, rbanks, slots, scratch, regs⟩ := s.inv_iff.1 h
  have hcfg : t.cfg = s.cfg := by cases hs <;> rfl
  have hbank : (t.bank, t.rbank) = (s.bank, s.rbank) := by cases hs <;> rfl
  simp only [Prod.mk.injEq] at hbank
  refine t.inv_iff.2 ⟨hcfg ▸ cfg, hs.ringsOk h.params rings, offsets.congr (by cases hs <;> rfl), ?_, ?_,
    hs.slotsOk h.params slots, hs.scratchOk scratch, hs.regsOk regs⟩
  · rw [hcfg, hbank.1]; exact banks
  · rw [hcfg, hbank.2]; exact rbanks

/-- The parts that only port P's commands can touch, after a command of T or U. -/
theorem State.ofP_ok {s t : State} (hcfg : t.cfg = s.cfg) (hofP : t.ofP = s.ofP) (slots : s.SlotsOk)
    (scratch : s.ScratchOk) : t.SlotsOk ∧ t.ScratchOk := by
  simp only [State.ofP, Prod.mk.injEq] at hofP
  obtain ⟨-, hrx, htx, hst, -, -, -, -, hT, -, -, -, -, -, hTmp⟩ := hofP
  refine ⟨slots.congr (by rw [State.slotView, hcfg, hrx, htx, hst, State.slotView]), ?_, ?_⟩
  · rw [hcfg, hTmp]; exact scratch.scratch
  · rw [hcfg, hT, hTmp]; exact scratch.times

theorem ConsumerStep.inv {s t : State} {i : Instr} (h : s.Inv) (hs : ConsumerStep s i t) : t.Inv := by
  obtain ⟨cfg, rings, offsets, banks, rbanks, slots, scratch, regs⟩ := s.inv_iff.1 h
  have hcfg : t.cfg = s.cfg := by cases hs <;> rfl
  have hbank : (t.bank, t.rbank) = (s.bank, s.rbank) := by cases hs <;> rfl
  simp only [Prod.mk.injEq] at hbank
  obtain ⟨slots', scratch'⟩ := State.ofP_ok hcfg hs.ofP_eq slots scratch
  refine t.inv_iff.2 ⟨hcfg ▸ cfg, hs.ringsOk rings, offsets.congr (by cases hs <;> rfl), ?_, ?_, slots', scratch',
    hs.regsOk regs⟩
  · rw [hcfg, hbank.1]; exact banks
  · rw [hcfg, hbank.2]; exact rbanks

theorem BulkStep.inv {s t : State} {i : Instr} (h : s.Inv) (hs : BulkStep s i t) : t.Inv := by
  obtain ⟨cfg, rings, offsets, banks, rbanks, slots, scratch, regs⟩ := s.inv_iff.1 h
  have hcfg : t.cfg = s.cfg := by cases hs <;> rfl
  obtain ⟨slots', scratch'⟩ := State.ofP_ok hcfg hs.ofP_eq slots scratch
  exact t.inv_iff.2 ⟨hcfg ▸ cfg, hs.ringsOk rings, hs.offsetsOk offsets, hcfg ▸ hs.banksStored offsets banks,
    hcfg ▸ hs.rbanksStored rbanks, slots', scratch', hs.regsOk regs⟩

theorem ChannelStep.inv {s t : State} {i : Instr} (h : s.Inv) (hs : ChannelStep s i t) : t.Inv := by
  obtain ⟨cfg, rings, offsets, banks, rbanks, slots, scratch, regs⟩ := s.inv_iff.1 h
  have hcfg : t.cfg = s.cfg := by cases hs <;> rfl
  have hrbank : t.rbank = s.rbank := by cases hs <;> rfl
  obtain ⟨slots', scratch'⟩ := State.ofP_ok hcfg hs.ofP_eq slots scratch
  exact t.inv_iff.2 ⟨hcfg ▸ cfg, hs.ringsOk rings, hs.offsetsOk offsets, hcfg ▸ hs.banksStored offsets banks,
    by rw [hcfg, hrbank]; exact rbanks, slots', scratch', hs.regsOk cfg regs⟩

theorem MicroStep.inv {s t : State} {i : Instr} (h : s.Inv) (hs : MicroStep s i t) : t.Inv := by
  cases hs with
  | halted => exact h.answered _ _
  | illegal => exact h.answered _ _
  | producer _ _ _ hs => exact hs.inv h
  | consumer _ _ _ hs => exact hs.inv h
  | bulk _ _ _ hs => exact hs.inv h
  | channel _ _ _ hs => exact hs.inv h

/-- Settles O57: a turn and an answer leave what the invariant reads, and every micro-step keeps it. -/
theorem invariantKept : Obligations.InvariantKept := by
  intro s t h hstep
  obtain rfl | ⟨q, -, rfl | ⟨r, rfl⟩ | ⟨cmd, i, -, -, hm⟩⟩ := step_cases hstep
  · exact h
  · exact h.select q
  · exact (h.select q).answered [] r
  · exact hm.inv (h.select q)

end Sys2Proof.Machine

/-! No run stops (93_implementation_defined U1): from a state with the invariant that is `Live`, no micro-step reads what was
never written or meets a busy port, and the next state is `Live` again. -/

namespace Sys2Proof.Machine

/-! The two parts of `State.Live` -/

/-- The first `n` entries of ring r from `get` on were written. -/
def State.WrittenTo (s : State) (r : Ring) (n : Nat) : Prop := ∀ k, k < n → (s.entryAt r k).isSome

/-- What was written: the slots that the consumer, a push and a batch count, and the scratch words of a batch. -/
structure State.Stored (s : State) : Prop where
  written : ∀ r, s.WrittenTo r (s.used r)
  pushWritten : s.pPhase = .pushPub → (s.readSlot s.pRing (s.put.sel s.pRing)).isSome
  batchWritten : s.pPhase = .pass2 ∨ s.pPhase = .batchPub →
    s.WrittenTo s.pRing (fill s.cfg.idxW s.pPut (s.get.sel s.pRing))
  passOne : s.pPhase = .pass1 → 1 ≤ s.pI.toNat ∧ s.pI.toNat ≤ s.pN.toNat ∧ s.pN.toNat ≤ s.cfg.batchMax
    ∧ s.pPut = s.put.sel s.pRing ∧ ∀ j, s.pI.toNat ≤ j → j < s.pN.toNat → (s.pTmp.read j).isSome
  passTwo : s.pPhase = .pass2 → s.pI.toNat < s.pN.toNat ∧ s.pN.toNat ≤ s.cfg.batchMax
    ∧ ∀ j, j < s.pN.toNat → (s.pTmp.read j).isSome

/-- What port P presents: the command in progress is still there (D42). -/
structure State.Presents (s : State) : Prop where
  push : s.halted = false → s.inPush → s.presentsP isPush
  batch : s.halted = false → s.inBatch → s.presentsP isBatch

theorem State.live_iff (s : State) : s.Live ↔ s.Stored ∧ s.Presents := by
  constructor
  · rintro ⟨h1, h2, h3, h4, h5, h6, h7⟩
    exact ⟨⟨h1, h2, h3, h4, h5⟩, ⟨h6, h7⟩⟩
  · rintro ⟨⟨h1, h2, h3, h4, h5⟩, ⟨h6, h7⟩⟩
    exact ⟨h1, h2, h3, h4, h5, h6, h7⟩

/-- Port P presents one command. -/
theorem State.kind_of_presentsP {s : State} {cmd : Command} {i : Instr} {kind : Instr → Bool}
    (hp : s.presented .p = some cmd) (hd : decodeWord cmd.word = .ok i) (h : s.presentsP kind) :
    kind i = true ∧ ({ s with port := .p } : State).legal i = true := by
  obtain ⟨cmd', i', hp', hd', hk, hl⟩ := h
  rw [hp] at hp'
  obtain rfl := Option.some.inj hp'
  rw [hd] at hd'
  obtain rfl := Except.ok.inj hd'
  exact ⟨hk, hl⟩

/-! What a part reads -/

def State.storedView (s : State) :=
  (s.cfg, s.put, s.get, s.slotRx, s.slotTx, s.slotSt, s.pPhase, s.pRing, s.pN, s.pI, s.pPut, s.pTmp)

theorem State.readSlot_congr {s t : State} (hv : t.slotView = s.slotView) (r : Ring) (i : Nat) :
    t.readSlot r i = s.readSlot r i := by
  have hread := State.readSlotAt_congr hv
  simp only [State.slotView, Prod.mk.injEq] at hv
  simp only [State.readSlot, State.slotIndex, hread, hv.1]

theorem State.WrittenTo.congr {s t : State} {r : Ring} {n : Nat} (h : s.WrittenTo r n) (hv : t.slotView = s.slotView)
    (hget : t.get.sel r = s.get.sel r) : t.WrittenTo r n := by
  intro k hk
  have hcfg : t.cfg = s.cfg := congrArg Prod.fst hv
  simpa only [State.entryAt, State.readSlot_congr hv, hget, hcfg] using h k hk

theorem State.Stored.congr {s t : State} (h : s.Stored) (hv : t.storedView = s.storedView) : t.Stored := by
  simp only [State.storedView, Prod.mk.injEq] at hv
  obtain ⟨hcfg, hput, hget, hrx, htx, hst, hphase, hring, hN, hI, hPut, hTmp⟩ := hv
  have hslots : t.slotView = s.slotView := by simp only [State.slotView, hcfg, hrx, htx, hst]
  have hread := State.readSlot_congr hslots
  have hentry : ∀ r k, t.entryAt r k = s.entryAt r k := fun r k => by simp only [State.entryAt, hread, hget, hcfg]
  obtain ⟨h1, h2, h3, h4, h5⟩ := h
  simp only [State.used, State.WrittenTo] at h1 h3
  constructor <;>
    simp only [State.used, State.WrittenTo, hentry, hread, hcfg, hput, hget, hphase, hring, hN, hI, hPut, hTmp] <;>
    assumption

theorem State.presentsP_congr {s t : State} (hinput : t.input.sel .p = s.input.sel .p) (hcfg : t.cfg = s.cfg)
    {kind : Instr → Bool} (h : s.presentsP kind) : t.presentsP kind := by
  obtain ⟨cmd, i, hp, hd, hk, hl⟩ := h
  have hpres : t.presented .p = s.presented .p := by simp only [State.presented, hinput]
  have hopb : ({ t with port := .p } : State).opb = ({ s with port := .p } : State).opb :=
    congrArg (fun c : Option Command => (c.map Command.opb).getD 0) hpres
  refine ⟨cmd, i, by rw [hpres]; exact hp, hd, hk, ?_⟩
  have hclear : ({ t with port := .p } : State).opbClear i = ({ s with port := .p } : State).opbClear i := by
    unfold State.opbClear
    rw [hopb]
  rw [State.legal_eq] at hl ⊢
  rw [hclear]
  simpa only [hcfg] using hl

/-! What is written stays written -/

theorem addW_addW (w g a k : Nat) : addW w (addW w g a) k = addW w g (a + k) := by
  simp only [addW, Nat.mod_add_mod, Nat.add_assoc]

/-- A slot write leaves every written entry written. -/
theorem State.WrittenTo.writeSlot {s : State} {r : Ring} {n : Nat} (h : s.WrittenTo r n) (r' : Ring) (i e : Nat) :
    (s.writeSlot r' i e).WrittenTo r n := by
  intro k hk
  have := State.isSome_readSlot_writeSlot (h k hk) r' i e
  simpa only [State.entryAt, State.writeSlot_cfg, State.writeSlot_get] using this

/-- One entry more, the one at index `p`. -/
theorem State.WrittenTo.succ {s : State} {r : Ring} {p : Nat} (hp : p < 2 ^ s.cfg.idxW)
    (hg : s.get.sel r < 2 ^ s.cfg.idxW) (h : s.WrittenTo r (fill s.cfg.idxW p (s.get.sel r)))
    (hread : (s.readSlot r p).isSome) : s.WrittenTo r (fill s.cfg.idxW p (s.get.sel r) + 1) := by
  intro k hk
  obtain hk | rfl := Nat.lt_succ_iff_lt_or_eq.1 hk
  · exact h k hk
  · rw [State.entryAt, addW_fill hp hg]
    exact hread

/-- A release to index `c` of the ring shifts the entries. -/
theorem State.WrittenTo.release {s t : State} {r : Ring} {n : Nat} (hg : s.get.sel r < 2 ^ s.cfg.idxW)
    (hc : t.get.sel r < 2 ^ s.cfg.idxW) (hv : t.slotView = s.slotView) (h : s.WrittenTo r n) :
    t.WrittenTo r (n - fill s.cfg.idxW (t.get.sel r) (s.get.sel r)) := by
  intro k hk
  have hcfg : t.cfg = s.cfg := congrArg Prod.fst hv
  have hentry : t.entryAt r k = s.entryAt r (fill s.cfg.idxW (t.get.sel r) (s.get.sel r) + k) := by
    simp only [State.entryAt, State.readSlot_congr hv, hcfg, ← addW_addW, addW_fill hc hg]
  rw [hentry]
  exact h _ (by omega)

/-! Every micro-step keeps what is written -/

/-- Between commands P's registers claim nothing. -/
theorem State.Stored.of_idle {s : State} (hphase : s.pPhase = .idle) (written : ∀ r, s.WrittenTo r (s.used r)) :
    s.Stored := by
  refine ⟨written, ?_, ?_, ?_, ?_⟩ <;> simp [hphase]

/-- A later put index of ring r, up to which the entries were written. -/
theorem State.written_publish {s : State} (written : ∀ r, s.WrittenTo r (s.used r)) {r : Ring} {p : Nat}
    (h : s.WrittenTo r (fill s.cfg.idxW p (s.get.sel r))) (r' : Ring) :
    s.WrittenTo r' (fill s.cfg.idxW ((s.put.upd r p).sel r') (s.get.sel r')) := by
  rw [PerRing.sel_upd]
  split
  · rename_i hr; subst hr; exact h
  · exact written r'

/-- The batch goes from one pass to the other, or from the last frame to the publish, only at its end. -/
theorem ite_phase_eq {c : Prop} [Decidable c] {a b ph : Phase} (h : (if c then a else b) = ph) :
    c ∧ a = ph ∨ ¬c ∧ b = ph := by
  split at h
  · exact .inl ⟨‹c›, h⟩
  · exact .inr ⟨‹¬c›, h⟩

theorem ProducerStep.stored {s t : State} {i : Instr} (hinv : s.Inv) (h : s.Stored) (hs : ProducerStep s i t) :
    t.Stored := by
  have hget : ∀ r, s.get.sel r < 2 ^ s.cfg.idxW := fun r => (hinv.widths.indices r).2.1
  cases hs with
  | pushOverfull | full | batchOverfull => exact h.congr rfl
  | check r =>
    refine ⟨h.written, ?_, ?_, ?_, ?_⟩ <;> simp
  | write e =>
    have hv : State.slotView { s with
        slotRx := (s.writeSlot s.pRing (s.put.sel s.pRing) e).slotRx
        slotTx := (s.writeSlot s.pRing (s.put.sel s.pRing) e).slotTx
        slotSt := (s.writeSlot s.pRing (s.put.sel s.pRing) e).slotSt
        pPhase := .pushPub } = (s.writeSlot s.pRing (s.put.sel s.pRing) e).slotView := by
      rw [State.writeSlot_eq]; rfl
    refine ⟨fun r => ?_, fun _ => ?_, ?_, ?_, ?_⟩
    · exact ((h.written r).writeSlot s.pRing (s.put.sel s.pRing) e).congr hv (by simp)
    · rw [State.readSlot_congr hv, State.readSlot_writeSlot, if_pos ⟨rfl, rfl⟩]
      rfl
    all_goals simp
  | publish _ phase =>
    have hlt := hinv.pushRoom (.inr phase)
    have hp := (hinv.widths.indices s.pRing).1
    have hfill := State.fill_addW_one_of_lt hinv.params hp (hget s.pRing) hlt
    have hto : s.WrittenTo s.pRing (s.used s.pRing + 1) := (h.written s.pRing).succ hp (hget _) (h.pushWritten phase)
    rw [State.used, ← hfill] at hto
    exact .of_idle rfl (State.written_publish h.written hto)
  | latchEmpty ring retry _ between => exact .of_idle between h.written
  | latch ring n retry _ _ nonempty bounded =>
    have hpos : 1 ≤ n.toNat := by bv_omega
    refine ⟨h.written, ?_, ?_, fun _ => ⟨hpos, Nat.le_refl _, bounded, rfl, fun j h1 h2 => ?_⟩, ?_⟩
    · simp
    · simp
    · exact absurd h2 (Nat.not_lt.2 h1)
    · simp
  | walk _ phase =>
    obtain ⟨h1, h2, h3, h4, h5⟩ := h.passOne phase
    have hI : (s.pI - 1).toNat = s.pI.toNat - 1 := BitVec.toNat_sub_of_le h1
    have hlast : s.pI - 1 = 0 ↔ s.pI.toNat = 1 := by bv_omega
    have hscratch : ∀ j, s.pI.toNat - 1 ≤ j → j < s.pN.toNat →
        ((s.pTmp.write (s.pI - 1).toNat s.pT).read j).isSome := by
      intro j hj hjn
      rw [Memory.read_write, hI]
      split
      · rfl
      · exact h5 j (by omega) hjn
    refine ⟨h.written, fun hph => ?_, fun hph r => ?_, fun hph => ?_, fun hph => ?_⟩
    · obtain ⟨-, hph⟩ | ⟨-, hph⟩ := ite_phase_eq hph <;> cases hph
    · rw [h4]; exact h.written s.pRing r
    · obtain ⟨-, hph⟩ | ⟨hmore, -⟩ := ite_phase_eq hph
      · cases hph
      · rw [hlast] at hmore
        have hbounds : 1 ≤ (s.pI - 1).toNat ∧ (s.pI - 1).toNat ≤ s.pN.toNat := by omega
        exact ⟨hbounds.1, hbounds.2, h3, h4, fun j hj => hscratch j (by rwa [← hI])⟩
    · obtain ⟨hend, -⟩ | ⟨-, hph⟩ := ite_phase_eq hph
      · rw [hlast] at hend
        have hlt : (s.pI - 1).toNat < s.pN.toNat := by omega
        exact ⟨hlt, h3, fun j => hscratch j (by omega)⟩
      · cases hph
  | drop _ phase =>
    obtain ⟨h1, h2, h3⟩ := h.passTwo phase
    refine ⟨h.written, fun hph => ?_, fun _ => h.batchWritten (.inl phase), fun hph => ?_, fun hph => ?_⟩
    · obtain ⟨-, hph⟩ | ⟨-, hph⟩ := ite_phase_eq hph <;> cases hph
    · obtain ⟨-, hph⟩ | ⟨-, hph⟩ := ite_phase_eq hph <;> cases hph
    · obtain ⟨-, hph⟩ | ⟨hmore, -⟩ := ite_phase_eq hph
      · cases hph
      · exact ⟨by bv_omega, h2, h3⟩
  | store v e _ phase room =>
    obtain ⟨h1, h2, h3⟩ := h.passTwo phase
    have hfill := State.fill_addW_one_of_lt hinv.params hinv.widths.localPut (hget s.pRing) room
    have hv : State.slotView { s with
        slotRx := (s.writeSlot s.pRing s.pPut e).slotRx, slotTx := (s.writeSlot s.pRing s.pPut e).slotTx
        slotSt := (s.writeSlot s.pRing s.pPut e).slotSt, pPut := addW s.cfg.idxW s.pPut 1, pStored := s.pStored + 1
        pI := s.pI + 1, pPhase := if s.pI + 1 = s.pN then .batchPub else .pass2 }
        = (s.writeSlot s.pRing s.pPut e).slotView := by
      rw [State.writeSlot_eq]; rfl
    refine ⟨fun r => ?_, fun hph => ?_, fun _ => ?_, fun hph => ?_, fun hph => ?_⟩
    · exact ((h.written r).writeSlot s.pRing s.pPut e).congr hv (by simp)
    · obtain ⟨-, hph⟩ | ⟨-, hph⟩ := ite_phase_eq hph <;> cases hph
    · have hto : (s.writeSlot s.pRing s.pPut e).WrittenTo s.pRing (fill s.cfg.idxW s.pPut (s.get.sel s.pRing) + 1) := by
        have hold := (h.batchWritten (.inl phase)).writeSlot s.pRing s.pPut e
        have hnew : ((s.writeSlot s.pRing s.pPut e).readSlot s.pRing s.pPut).isSome := by
          rw [State.readSlot_writeSlot, if_pos ⟨rfl, rfl⟩]
          rfl
        rw [← State.writeSlot_cfg s s.pRing s.pPut e, ← State.writeSlot_get s s.pRing s.pPut e] at hold ⊢
        refine hold.succ ?_ ?_ hnew
        · rw [State.writeSlot_cfg]; exact hinv.widths.localPut
        · rw [State.writeSlot_cfg, State.writeSlot_get]; exact hget _
      rw [hfill]
      exact hto.congr hv (by simp)
    · obtain ⟨-, hph⟩ | ⟨-, hph⟩ := ite_phase_eq hph <;> cases hph
    · obtain ⟨-, hph⟩ | ⟨hmore, -⟩ := ite_phase_eq hph
      · cases hph
      · exact ⟨by bv_omega, h2, h3⟩
  | publishBatch _ phase => exact .of_idle rfl (State.written_publish h.written (h.batchWritten (.inr phase)))

theorem ConsumerStep.stored {s t : State} {i : Instr} (hinv : s.Inv) (h : s.Stored) (hs : ConsumerStep s i t) :
    t.Stored := by
  cases hs with
  | released r =>
    have hidx := hinv.widths.indices
    have hrings := (s.inv_iff.1 hinv).2.1
    obtain ⟨hcl, hlu⟩ := hinv.cursor r
    have hto : ∀ r' n, s.WrittenTo r' n → State.WrittenTo { s with get := s.get.upd r (s.cCur.sel r) } r'
        (n - if r' = r then fill s.cfg.idxW (s.cCur.sel r) (s.get.sel r) else 0) := by
      intro r' n hn
      split
      · rename_i hr
        subst hr
        have hsel : (s.get.upd r' (s.cCur.sel r')).sel r' = s.cCur.sel r' := by simp
        have := hn.release (t := { s with get := s.get.upd r' (s.cCur.sel r') }) (hidx r').2.1
          (by rw [hsel]; exact (hidx r').2.2.1) rfl
        rwa [hsel] at this
      · rename_i hr
        exact hn.congr rfl (by simp [hr])
    have hstored : State.Stored { s with get := s.get.upd r (s.cCur.sel r) } := by
      refine ⟨fun r' => ?_, h.pushWritten, fun hph => ?_, h.passOne, h.passTwo⟩
      · rw [hrings.used_release r r']
        exact hto r' _ (h.written r')
      · have hb := hto _ _ (h.batchWritten hph)
        split at hb
        · rename_i hr
          have hle := (hinv.batchRoom (.inr hph)).2
          rw [hr] at hle
          have hfill := fill_release hinv.widths.localPut (hidx r).2.2.1 (hidx r).2.1 (hcl.trans (hlu.trans hle))
          simpa [hr, hfill] using hb
        · rename_i hr
          simpa [hr] using hb
    exact hstored.congr rfl
  | _ => exact h.congr rfl

theorem ChannelStep.stored {s t : State} {i : Instr} (h : s.Stored) (hs : ChannelStep s i t) : t.Stored := by
  have hreset : ∀ (u : State), u.pPhase = .idle → (∀ r, u.used r = 0) → u.Stored := fun u hph hu =>
    .of_idle hph fun r k hk => by rw [hu] at hk; exact absurd hk (Nat.not_lt_zero k)
  cases hs with
  | disabled between => exact hreset _ between fun r => fill_self _ _
  | reset between => exact hreset _ between fun r => fill_self _ _
  | _ => exact h.congr rfl

theorem BulkStep.stored {s t : State} {i : Instr} (h : s.Stored) (hs : BulkStep s i t) : t.Stored := by
  cases hs <;> exact h.congr rfl

/-! Every micro-step leaves the command in progress -/

/-- A running state has P's command where no step of another port has taken it. -/
theorem State.Presents.congr {s t : State} (h : s.Presents) (hinput : t.input.sel .p = s.input.sel .p)
    (hcfg : t.cfg = s.cfg) (hphase : t.pPhase = s.pPhase) (hhalt : t.halted = false → s.halted = false) : t.Presents := by
  refine ⟨fun hh hp => ?_, fun hh hb => ?_⟩
  · exact State.presentsP_congr hinput hcfg (h.push (hhalt hh) (by rwa [State.inPush, hphase] at hp))
  · exact State.presentsP_congr hinput hcfg (h.batch (hhalt hh) (by rwa [State.inBatch, hphase] at hb))

theorem State.Presents.of_idle {s : State} (h : s.pPhase = .idle) : s.Presents :=
  ⟨fun _ hp => by simp [State.inPush, h] at hp, fun _ hb => by simp [State.inBatch, h] at hb⟩

theorem State.Presents.of_halted {s : State} (h : s.halted = true) : s.Presents :=
  ⟨fun hh => by simp [h] at hh, fun hh => by simp [h] at hh⟩

/-- Halting is the only thing a step does to `halted`. -/
theorem MicroStep.running_of_running {s t : State} {i : Instr} (h : MicroStep s i t) (ht : t.halted = false) :
    s.halted = false := by
  cases h with
  | halted => exact ht
  | illegal running | producer running | consumer running | bulk running | channel running => exact running

/-- A micro-step on port T or U. -/
theorem MicroStep.presents_of_port_ne {s t : State} {i : Instr} (hp : s.port ≠ .p) (h : s.Presents)
    (hs : MicroStep s i t) : t.Presents := by
  refine h.congr ?_ hs.cfg_eq ?_ hs.running_of_running
  · obtain hin | hin := hs.input_eq
    · rw [hin]
    · rw [hin, PerPort.sel_upd, if_neg hp.symm]
  · cases hs with
    | halted => rfl
    | illegal => rfl
    | producer _ _ port => exact absurd port hp
    | consumer _ _ _ h => cases h <;> rfl
    | bulk _ _ _ h => cases h <;> rfl
    | channel _ _ _ h => cases h <;> rfl

/-- A legal command on port P is the one that P presents. -/
theorem ProducerStep.presents {s t : State} {i : Instr} (hport : s.port = .p) (hl : s.legal i = true) {cmd : Command}
    (hp : s.presented .p = some cmd) (hd : decodeWord cmd.word = .ok i) (hs : ProducerStep s i t) : t.Presents := by
  have hl' : ({ s with port := .p } : State).legal i = true := by rw [← hport]; exact hl
  have hpush : isPush i = true → ∀ u : State, u.input = s.input → u.cfg = s.cfg → ¬ u.inBatch → u.Presents :=
    fun kind u hin hcfg hnot => ⟨fun _ _ => State.presentsP_congr (by rw [hin]) hcfg ⟨cmd, i, hp, hd, kind, hl'⟩,
      fun _ hb => absurd hb hnot⟩
  have hbatch : isBatch i = true → ∀ u : State, u.input = s.input → u.cfg = s.cfg → ¬ u.inPush → u.Presents :=
    fun kind u hin hcfg hnot => ⟨fun _ hb => absurd hb hnot,
      fun _ _ => State.presentsP_congr (by rw [hin]) hcfg ⟨cmd, i, hp, hd, kind, hl'⟩⟩
  cases hs with
  | pushOverfull | batchOverfull => exact .of_halted rfl
  | full r _ between => exact .of_idle between
  | latchEmpty ring _ _ between => exact .of_idle between
  | publish | publishBatch => exact .of_idle rfl
  | check r kind => exact hpush kind _ rfl rfl (by simp [State.inBatch])
  | write e kind => exact hpush kind _ rfl rfl (by simp [State.inBatch])
  | latch ring n retry kind => exact hbatch kind _ rfl rfl (by simp [State.inPush])
  | walk kind => exact hbatch kind _ rfl rfl (by simp only [State.inPush]; split <;> simp)
  | drop kind => exact hbatch kind _ rfl rfl (by simp only [State.inPush]; split <;> simp)
  | store v e kind => exact hbatch kind _ rfl rfl (by simp only [State.inPush]; split <;> simp)

/-- What is not a legal command leaves P between commands, or the block halted. -/
theorem State.Presents.of_not_offered {s : State} (h : s.Presents)
    (hnot : ∀ kind, s.halted = false → ¬ s.presentsP kind) (t : State) (hhalt : t.halted = s.halted)
    (hphase : t.pPhase = s.pPhase) : t.Presents := by
  refine ⟨fun hh hp => ?_, fun hh hb => ?_⟩
  · exact absurd (h.push (hhalt ▸ hh) (by rwa [State.inPush, hphase] at hp)) (hnot _ (hhalt ▸ hh))
  · exact absurd (h.batch (hhalt ▸ hh) (by rwa [State.inBatch, hphase] at hb)) (hnot _ (hhalt ▸ hh))

theorem State.with_port_self {s : State} {q : Port} (h : s.port = q) : ({ s with port := q } : State) = s := by
  subst h; rfl

theorem MicroStep.live {s t : State} {i : Instr} {cmd : Command} (hinv : s.Inv) (h : s.Live)
    (hp : s.presented s.port = some cmd) (hd : decodeWord cmd.word = .ok i) (hs : MicroStep s i t) : t.Live := by
  obtain ⟨stored, presents⟩ := s.live_iff.1 h
  refine t.live_iff.2 ⟨?stored, ?presents⟩
  case stored =>
    cases hs with
    | halted => exact stored.congr rfl
    | illegal => exact stored.congr rfl
    | producer _ _ _ hs => exact hs.stored hinv stored
    | consumer _ _ _ hs => exact hs.stored hinv stored
    | bulk _ _ _ hs => exact hs.stored stored
    | channel _ _ _ hs => exact hs.stored stored
  case presents =>
    by_cases hport : s.port = .p
    · rw [hport] at hp
      cases hs with
      | halted hh => exact .of_halted hh
      | illegal _ hl =>
        refine presents.of_not_offered (fun kind _ hk => ?_) _ rfl rfl
        have hlegal := (State.kind_of_presentsP hp hd hk).2
        rw [State.with_port_self hport, hl] at hlegal
        cases hlegal
      | producer _ hl _ hs => exact hs.presents hport hl hp hd
      | consumer _ _ hq => simp [hport] at hq
      | bulk _ _ hq => simp [hport] at hq
      | channel _ _ hq => simp [hport] at hq
    · exact hs.presents_of_port_ne hport presents

/-! Every command in its turn answers a next state -/

theorem State.checked_progress {s : State} {i : Instr} {body : Result}
    (h : s.halted = false → s.legal i = true → ∃ t, body = .next t) : ∃ t, s.checked i body = .next t := by
  cases hh : s.halted with
  | true => exact ⟨_, State.checked_halted hh i body⟩
  | false =>
    cases hl : s.legal i with
    | false => exact ⟨_, State.checked_illegal hh hl body⟩
    | true =>
      obtain ⟨t, ht⟩ := h hh hl
      exact ⟨t, (State.checked_legal hh hl body).trans ht⟩

theorem State.guarded_progress {s : State} {g : Bool} {body : Result} (h : ∃ t, body = .next t) :
    ∃ t, s.guarded g body = .next t := by
  cases g
  · exact ⟨s, rfl⟩
  · exact h

theorem State.pushStep_progress {s : State} (h : ¬ s.inBatch) (r : Ring) (e : Nat) : ∃ t, s.pushStep r e = .next t := by
  unfold State.pushStep
  split
  case h_1 | h_2 | h_3 => exact ⟨_, rfl⟩
  case h_4 hph | h_5 hph | h_6 hph => exact absurd (by simp [State.inBatch, hph]) h

theorem State.passOne_progress {s : State} (h : s.Stored) (hph : s.pPhase = .pass1) : ∃ t, s.passOne = .next t := by
  obtain ⟨h1, h2, h3, -⟩ := h.passOne hph
  exact ⟨_, State.passOne_of_le h1 (h2.trans h3)⟩

theorem State.passTwo_progress {s : State} (h : s.Stored) (hph : s.pPhase = .pass2) : ∃ t, s.passTwo = .next t := by
  obtain ⟨h1, -, h3⟩ := h.passTwo hph
  obtain ⟨v, hv⟩ := Option.isSome_iff_exists.1 (h3 _ h1)
  unfold State.passTwo
  rw [hv]
  split
  · exact ⟨_, rfl⟩
  · split <;> exact ⟨_, rfl⟩

theorem State.batchStep_progress {s : State} (h : ¬ s.inPush) (hst : s.Stored) (ring : Ring) (n : BitVec 16)
    (retry : BitVec 8) : ∃ t, s.batchStep ring n retry = .next t := by
  unfold State.batchStep
  split
  case h_1 | h_4 => exact ⟨_, rfl⟩
  case h_2 hph => exact State.passOne_progress hst hph
  case h_3 hph => exact State.passTwo_progress hst hph
  case h_5 hph | h_6 hph => exact absurd (by simp [State.inPush, hph]) h

theorem State.popNext_progress {s : State} (hinv : s.Inv) (h : s.Stored) (r : Ring) : ∃ t, s.popNext r = .next t := by
  by_cases hend : s.cCur.sel r = s.cLim.sel r
  · exact ⟨_, State.popNext_of_eq hend⟩
  · obtain ⟨-, hg, hc, hl⟩ := hinv.widths.indices r
    obtain ⟨hcl, hlu⟩ := hinv.cursor r
    have hlt : fill s.cfg.idxW (s.cCur.sel r) (s.get.sel r) < s.used r :=
      Nat.lt_of_lt_of_le (Nat.lt_of_le_of_ne hcl fun heq => hend (fill_inj hc hl hg heq)) hlu
    have hsome := h.written r _ hlt
    rw [State.entryAt, addW_fill hc hg] at hsome
    obtain ⟨e, he⟩ := Option.isSome_iff_exists.1 hsome
    exact ⟨_, State.popNext_of_read hend he⟩

theorem State.submitThen_progress {s : State} {c : InChan} (hle : s.actOff c ≤ s.bufIn c) (k : State → State) :
    ∃ t, s.submitThen c k = .next t :=
  ⟨_, if_pos (State.padFits_of_le hle)⟩

theorem State.complete_progress {s : State} {c : InChan} (hle : s.actOff c ≤ s.bufIn c) : ∃ t, s.complete c = .next t := by
  unfold State.complete
  dsimp only
  split
  · exact ⟨_, rfl⟩
  · have hact : (s.setOff c (s.act.sel c).other 0).actOff c = s.actOff c := by simp [State.actOff, State.offOf]
    exact State.submitThen_progress (by rw [hact]; exact hle) _

theorem State.placeReceipt_progress {s : State} (hle : s.actOff .dataIn ≤ s.bufIn .dataIn) (m : BitVec 16) :
    ∃ t, s.placeReceipt m = .next t := by
  unfold State.placeReceipt
  split
  · exact ⟨_, rfl⟩
  · split
    · exact State.submitThen_progress hle _
    · exact ⟨_, rfl⟩

theorem State.transmitRequest_progress {s : State} (hle : s.actOff .dataIn ≤ s.bufIn .dataIn) (m : BitVec 16) :
    ∃ t, s.transmitRequest m = .next t := by
  unfold State.transmitRequest
  split
  · exact ⟨_, rfl⟩
  · refine State.placeReceipt_progress ?_ m
    exact hle

theorem exec_progress {s : State} {i : Instr} {cmd : Command} (hinv : s.Inv) (h : s.Live)
    (hp : s.presented s.port = some cmd) (hd : decodeWord cmd.word = .ok i) : ∃ t, exec i s = .next t := by
  obtain ⟨stored, presents⟩ := s.live_iff.1 h
  have hle : ∀ c, s.actOff c ≤ s.bufIn c := fun c => (hinv.bankRoom c).1
  have other : ∀ {kind : Instr → Bool}, s.port = .p → kind i = false → ¬ s.presentsP kind := by
    intro kind hport hk hpres
    rw [hport] at hp
    have := (State.kind_of_presentsP hp hd hpres).1
    simp [hk] at this
  cases i with
  | rbPush | tsBst | tsBer =>
    refine State.checked_progress fun hh hl => State.pushStep_progress (fun hb => ?_) _ _
    exact other (List.mem_singleton.1 (State.mem_ports_of_legal hl)) rfl (presents.batch hh hb)
  | tsRxb | tsTxb =>
    refine State.checked_progress fun hh hl => State.batchStep_progress (fun hb => ?_) stored _ _ _
    exact other (List.mem_singleton.1 (State.mem_ports_of_legal hl)) rfl (presents.push hh hb)
  | rbPopn r => exact State.checked_progress fun _ _ => State.popNext_progress hinv stored r
  | bcSub c =>
    refine State.checked_progress fun _ _ => ?_
    unfold State.submit
    split
    · exact State.submitThen_progress (hle c) _
    · exact ⟨_, rfl⟩
  | bcTxc c => exact State.checked_progress fun _ _ => State.guarded_progress (State.complete_progress (hle c))
  | chTxrq m => exact State.checked_progress fun _ _ => State.transmitRequest_progress (hle .dataIn) m
  | chEn | chRst => exact State.checked_progress fun _ _ => State.guarded_progress ⟨_, rfl⟩
  | rbPopb | rbPopr | rbStat | bcWr | bcRdy | bcRxc | chBt | chFor | chFcl | chStat =>
    exact State.checked_progress fun _ _ => ⟨_, rfl⟩

/-- A turn leaves what `Live` reads. -/
theorem State.Live.select {s : State} (h : s.Live) (q : Port) : (s.select q).Live := by
  obtain ⟨stored, presents⟩ := s.live_iff.1 h
  exact (s.select q).live_iff.2 ⟨stored.congr rfl, presents.congr rfl rfl rfl id⟩

/-- The answer to a word that is no command: on port P such a word stands only between commands. -/
theorem State.Live.refuseWord {s : State} {cmd : Command} {e : DecodeError} (h : s.Live)
    (hp : s.presented s.port = some cmd) (hd : decodeWord cmd.word = .error e) : s.refuseWord.Live := by
  obtain ⟨stored, presents⟩ := s.live_iff.1 h
  obtain ⟨r, hr⟩ : ∃ r, s.refuseWord = s.answered [] r := by
    unfold State.refuseWord
    split
    · exact ⟨_, State.refuseHalted_eq_answered _⟩
    · exact ⟨_, State.refuseIllegal_eq_answered _⟩
  rw [hr]
  refine (s.answered [] r).live_iff.2 ⟨stored.congr rfl, ?_⟩
  by_cases hport : s.port = .p
  · refine presents.of_not_offered (fun kind _ hk => ?_) _ rfl rfl
    obtain ⟨cmd', i, hp', hd', -⟩ := hk
    rw [hport, hp'] at hp
    rw [← Option.some.inj hp, hd'] at hd
    cases hd
  · refine presents.congr ?_ rfl rfl id
    change (s.input.upd s.port _).sel .p = _
    rw [PerPort.sel_upd, if_neg (Ne.symm hport)]

/-- Settles O58. -/
theorem runsNeverStop : Obligations.RunsNeverStop := by
  intro s hinv h
  cases hn : s.nextPort with
  | none => exact ⟨s, by simp only [step, hn], h⟩
  | some q =>
    cases hp : s.presented q with
    | none =>
      have hps : (s.select q).presented (s.select q).port = none := hp
      exact ⟨s.select q, by simp only [step, hn, State.perform, hps], h.select q⟩
    | some cmd =>
      obtain ⟨e, hd, hs⟩ | ⟨i, hd, hs⟩ := step_of_presented hn hp
      · exact ⟨_, hs, (h.select q).refuseWord hp hd⟩
      · obtain ⟨t, ht⟩ := exec_progress (hinv.select q) (h.select q) hp hd
        exact ⟨t, hs.trans ht, (exec_microStep ht).live (hinv.select q) (h.select q) hp hd⟩

/-! Power-on -/

/-- The default parameters meet R7, whatever the two free masks are. -/
theorem paramsOk_defaults : ParamsOk Config.defaults :=
  ⟨rfl, Config.featPerm.isLt, Config.featConf.isLt⟩

/-- No storage is written at power-on (R49). -/
theorem State.reset_readSlotAt (r : Ring) (k : Nat) : State.reset.readSlotAt r k = none := by cases r <;> rfl

theorem State.reset_used (r : Ring) : State.reset.used r = 0 := by cases r <;> exact fill_self _ _

theorem State.reset_inv : State.reset.Inv := by
  have hparams : ParamsOk State.reset.cfg := paramsOk_defaults
  have empty : ∀ {α : Type} {n : Nat}, Memory.Wf ([] : Memory α) ∧ Memory.Within ([] : Memory α) n :=
    ⟨.nil, fun x hx => by cases hx⟩
  obtain ⟨hfeat, hwidth⟩ := hparams.featPerm
  refine State.reset.inv_iff.2 ⟨hparams, ?rings, ?offsets, ?banks, ?rbanks, ?slots, ?scratch, ?regs⟩
  case rings =>
    refine .of_idle rfl (fun r => by rw [State.reset_used]; exact Nat.zero_le _) (fun r => ?_) (fun r => ?_)
      (two_pow_pos _)
    · rw [State.reset_used]
      cases r <;> exact ⟨Nat.le_refl _, (fill_self _ _).le⟩
    · cases r <;> exact ⟨two_pow_pos _, two_pow_pos _, two_pow_pos _, two_pow_pos _⟩
  case offsets => exact fun c => by cases c <;> exact ⟨Nat.zero_le _, Nat.zero_le _⟩
  case banks => exact fun c b => by cases c <;> cases b <;> exact empty
  case rbanks => exact fun c b => by cases c <;> cases b <;> exact empty
  case slots => exact ⟨empty, empty, empty, fun r k e he => by rw [State.reset_readSlotAt] at he; cases he⟩
  case scratch => exact ⟨empty, two_pow_pos _, fun k v hv => by cases hv⟩
  case regs =>
    refine ⟨by decide, hfeat, .inl ⟨rfl, rfl⟩, ⟨fun r => ?_, two_pow_pos _⟩, ⟨two_pow_pos _, two_pow_pos _⟩, hwidth⟩
    cases r <;> exact two_pow_pos _

theorem State.reset_live : State.reset.Live :=
  State.reset.live_iff.2 ⟨.of_idle rfl fun r k hk => by rw [State.reset_used] at hk; exact absurd hk (Nat.not_lt_zero k),
    .of_idle rfl⟩

/-- Settles O56: all storage is empty, every index and offset 0, P between commands. -/
theorem invariantAtReset : Obligations.InvariantAtReset := ⟨State.reset_inv, State.reset_live⟩

/-- Settles O55, field by field. -/
theorem powerOnValues : Obligations.PowerOnValues := by
  rintro s rfl
  refine ⟨rfl, rfl, rfl, rfl, rfl, State.reset_readSlotAt, fun _ => rfl, ?banks, ?rbanks, rfl, rfl, rfl, rfl, rfl, rfl, rfl,
    rfl, rfl, rfl, rfl, rfl, rfl, rfl, rfl, rfl, rfl, rfl, rfl, rfl, rfl, rfl, rfl, rfl, rfl, rfl, rfl, rfl, rfl, ?quiet,
    ?drained, rfl⟩
  case banks => exact fun c b k => by cases c <;> cases b <;> rfl
  case rbanks => exact fun c b k => by cases c <;> cases b <;> rfl
  case quiet => rfl
  case drained => rfl

end Sys2Proof.Machine

/-! The rings as queues (20_memory section 3, 41_ring): consecutive indices are distinct slots, a producer writes behind the
contents and appends to them, the consumer reads them in order and releases them from the front. -/

namespace Sys2Proof.Machine

/-! Slot addresses (R62, R122) -/

theorem State.slotIndex_mod {s : State} (hvalid : s.cfg.valid = true) (r : Ring) (n : Nat) :
    s.slotIndex r (n % 2 ^ s.cfg.idxW) = n % s.cap r :=
  Nat.mod_mod_of_dvd _ (capValid_dvd (Params.capValid_of_valid hvalid r))

/-- Fewer than `n` apart, two numbers are different modulo `n`. -/
theorem add_mod_ne_mod {n d m : Nat} (h0 : 0 < d) (hd : d < n) : (m + d) % n ≠ m % n := by
  intro h
  have hdvd : n ∣ m + d - m := (Nat.modEq_iff_dvd' (Nat.le_add_right m d)).1 h.symm
  rw [Nat.add_sub_cancel_left] at hdvd
  exact absurd (Nat.le_of_dvd h0 hdvd) (Nat.not_le.2 hd)

/-- Settles O19. -/
theorem consecutiveIndicesDistinctSlots : Obligations.ConsecutiveIndicesDistinctSlots := by
  refine ⟨fun s r n d hvalid h0 hd => ?distinct, fun s r n d hvalid => ?consecutive, fun idxW cap n k hcap hk => ?level⟩
  case distinct =>
    rw [State.slotIndex_mod hvalid, State.slotIndex_mod hvalid]
    exact add_mod_ne_mod h0 hd
  case consecutive => rw [State.slotIndex_mod hvalid, State.slotIndex_mod hvalid, Nat.mod_add_mod]
  case level => exact fill_of_counts n (Nat.lt_of_le_of_lt hk hcap)

/-- Two entries fewer than the capacity apart stand in different slots. -/
theorem State.slotIndex_addW_ne {s : State} (hvalid : s.cfg.valid = true) (r : Ring) (g : Nat) {j k : Nat} (hkj : k < j)
    (hcap : j < s.cap r) : s.slotIndex r (addW s.cfg.idxW g k) ≠ s.slotIndex r (addW s.cfg.idxW g j) := by
  have hdist := consecutiveIndicesDistinctSlots.1 s r (g + k) (j - k) hvalid (by omega) (by omega)
  rw [show g + k + (j - k) = g + j by omega] at hdist
  exact hdist.symm

/-! Entries after a slot write -/

/-- A write behind the entries that are counted leaves them alone (R73). -/
theorem State.entryAt_writeSlot_of_lt {s : State} (hinv : s.Inv) {r : Ring} {p : Nat} (hp : p < 2 ^ s.cfg.idxW)
    (hroom : fill s.cfg.idxW p (s.get.sel r) < s.cap r) (e : Nat) {k : Nat} (hk : k < fill s.cfg.idxW p (s.get.sel r)) :
    (s.writeSlot r p e).entryAt r k = s.entryAt r k := by
  have hne := State.slotIndex_addW_ne hinv.params r (s.get.sel r) hk hroom
  rw [addW_fill hp (hinv.widths.indices r).2.1] at hne
  rw [State.entryAt, State.readSlot_writeSlot, State.writeSlot_cfg, State.writeSlot_get, if_neg (fun h => hne h.2)]
  rfl

/-- The written entry itself. -/
theorem State.entryAt_writeSlot_self {s : State} (hinv : s.Inv) {r : Ring} {p : Nat} (hp : p < 2 ^ s.cfg.idxW) (e : Nat) :
    (s.writeSlot r p e).entryAt r (fill s.cfg.idxW p (s.get.sel r)) = some (storedForm s.cfg r e) := by
  rw [State.entryAt, State.readSlot_writeSlot, State.writeSlot_cfg, State.writeSlot_get,
    addW_fill hp (hinv.widths.indices r).2.1, if_pos ⟨rfl, rfl⟩]

theorem State.entryAt_writeSlot_of_ne {s : State} {r r' : Ring} (hr : r' ≠ r) (p e k : Nat) :
    (s.writeSlot r p e).entryAt r' k = s.entryAt r' k := by
  rw [State.entryAt, State.readSlot_writeSlot, State.writeSlot_cfg, State.writeSlot_get, if_neg (fun h => hr h.1)]
  rfl

theorem State.entryAt_congr {s t : State} (hv : t.slotView = s.slotView) {r : Ring} (hget : t.get.sel r = s.get.sel r)
    (k : Nat) : t.entryAt r k = s.entryAt r k := by
  have hcfg : t.cfg = s.cfg := congrArg Prod.fst hv
  simp only [State.entryAt, State.readSlot_congr hv, hget, hcfg]

/-! Contents -/

/-- Contents that keep their entries and are not fewer are a continuation. -/
theorem State.contents_eq_append {s t : State} {r : Ring} (hle : s.used r ≤ t.used r)
    (hentry : ∀ k, k < s.used r → t.entryAt r k = s.entryAt r k) :
    t.contents r = s.contents r ++ (List.range (t.used r - s.used r)).map fun k => t.entryAt r (s.used r + k) := by
  have hsplit : List.range (t.used r) = List.range (s.used r) ++ (List.range (t.used r - s.used r)).map (s.used r + ·) := by
    rw [← List.range_add, Nat.add_sub_cancel' hle]
  rw [State.contents, State.contents, hsplit, List.map_append, List.map_map]
  exact congrArg (· ++ _) (List.map_congr_left fun k hk => hentry k (List.mem_range.1 hk))

/-- Contents with the same entries and the same count. -/
theorem State.contents_congr {s t : State} {r : Ring} (hused : t.used r = s.used r)
    (hentry : ∀ k, k < s.used r → t.entryAt r k = s.entryAt r k) : t.contents r = s.contents r := by
  rw [State.contents_eq_append hused.ge hentry, hused, Nat.sub_self]
  simp

theorem State.contents_congr_view {s t : State} {r : Ring} (hv : t.slotView = s.slotView)
    (hput : t.put.sel r = s.put.sel r) (hget : t.get.sel r = s.get.sel r) : t.contents r = s.contents r := by
  have hcfg : t.cfg = s.cfg := congrArg Prod.fst hv
  exact State.contents_congr (by simp only [State.used, hcfg, hput, hget]) fun k _ => State.entryAt_congr hv hget k

theorem State.contents_continue {s t : State} {r : Ring} (hle : s.used r ≤ t.used r)
    (hentry : ∀ k, k < s.used r → t.entryAt r k = s.entryAt r k) : ∃ new, t.contents r = s.contents r ++ new :=
  ⟨_, State.contents_eq_append hle hentry⟩

/-! The producer (R73, R124, R155) -/

/-- A write at a place behind the contents of its ring. -/
theorem State.contents_writeSlot {s : State} (hinv : s.Inv) {r : Ring} {p : Nat} (hp : p < 2 ^ s.cfg.idxW)
    (hroom : fill s.cfg.idxW p (s.get.sel r) < s.cap r) (hle : s.used r ≤ fill s.cfg.idxW p (s.get.sel r)) (e : Nat)
    (r' : Ring) : (s.writeSlot r p e).contents r' = s.contents r' := by
  have hused : (s.writeSlot r p e).used r' = s.used r' := by
    simp only [State.used, State.writeSlot_cfg, State.writeSlot_put, State.writeSlot_get]
  refine State.contents_congr hused fun k hk => ?_
  by_cases hr : r' = r
  · subst hr
    exact State.entryAt_writeSlot_of_lt hinv hp hroom e (Nat.lt_of_lt_of_le hk hle)
  · exact State.entryAt_writeSlot_of_ne hr p e k

/-- A later put index of one ring continues its contents. -/
theorem State.contents_publish {s t : State} {r : Ring} {p : Nat} (hv : t.slotView = s.slotView) (hget : t.get = s.get)
    (hput : t.put = s.put.upd r p) (hle : s.used r ≤ fill s.cfg.idxW p (s.get.sel r)) (r' : Ring) :
    ∃ new, t.contents r' = s.contents r' ++ new := by
  have hcfg : t.cfg = s.cfg := congrArg Prod.fst hv
  refine State.contents_continue ?_ fun k _ => State.entryAt_congr hv (by rw [hget]) k
  simp only [State.used, hcfg, hget, hput, PerRing.sel_upd]
  split
  · rename_i hr; subst hr; exact hle
  · exact Nat.le_refl _

theorem ProducerStep.contents {s t : State} {i : Instr} (hinv : s.Inv) (hs : ProducerStep s i t) (r : Ring) :
    ∃ new, t.contents r = s.contents r ++ new := by
  have same : ∀ {u : State}, u.contents r = s.contents r → ∃ new, u.contents r = s.contents r ++ new :=
    fun h => ⟨[], by rw [h, List.append_nil]⟩
  cases hs with
  | write e _ phase =>
    have hkept := State.contents_writeSlot hinv (hinv.widths.indices s.pRing).1 (hinv.pushRoom (.inl phase))
      (Nat.le_refl _) e r
    refine same ((State.contents_congr_view (s := s.writeSlot s.pRing (s.put.sel s.pRing) e) ?_ ?_ ?_).trans hkept)
    · rw [State.writeSlot_eq]; rfl
    · rw [State.writeSlot_put]
    · rw [State.writeSlot_get]
  | store v e _ phase room =>
    have hle := (hinv.batchRoom (.inr (.inl phase))).2
    have hkept := State.contents_writeSlot hinv hinv.widths.localPut room hle e r
    refine same ((State.contents_congr_view (s := s.writeSlot s.pRing s.pPut e) ?_ ?_ ?_).trans hkept)
    · rw [State.writeSlot_eq]; rfl
    · rw [State.writeSlot_put]
    · rw [State.writeSlot_get]
  | publish _ phase =>
    obtain ⟨hp, hg, -⟩ := hinv.widths.indices s.pRing
    have hfill := State.fill_addW_one_of_lt hinv.params hp hg (hinv.pushRoom (.inr phase))
    refine State.contents_publish ?_ ?_ (r := s.pRing) ?_ (by rw [hfill]; exact Nat.le_succ _) r <;> rfl
  | publishBatch _ phase =>
    refine State.contents_publish ?_ ?_ (r := s.pRing) ?_ (hinv.batchRoom (.inr (.inr phase))).2 r <;> rfl
  | _ => exact same (State.contents_congr_view rfl rfl rfl)

/-- Settles O17. -/
theorem producerKeepsContents : Obligations.ProducerKeepsContents := by
  intro i s t r hinv hp h
  cases exec_microStep h with
  | halted => exact ⟨[], by rw [List.append_nil]; exact State.contents_congr_view rfl rfl rfl⟩
  | illegal => exact ⟨[], by rw [List.append_nil]; exact State.contents_congr_view rfl rfl rfl⟩
  | producer _ _ _ hs => exact hs.contents hinv r
  | consumer _ _ port _ => simp [hp] at port
  | bulk _ _ port _ => simp [hp] at port
  | channel _ _ port _ => simp [hp] at port

/-! The consumer (R126, R127) -/

/-- The entry of the contents at the cursor's place is the one in the cursor's slot. -/
theorem State.readSlot_cursor {s : State} (hinv : s.Inv) {r : Ring} {e : Nat}
    (h : (s.contents r)[fill s.cfg.idxW (s.cCur.sel r) (s.get.sel r)]? = some (some e)) :
    s.readSlot r (s.cCur.sel r) = some e := by
  obtain ⟨-, hg, hc, -⟩ := hinv.widths.indices r
  rw [State.contents, List.getElem?_map, Option.map_eq_some_iff] at h
  obtain ⟨k, hk, he⟩ := h
  obtain ⟨hlt, rfl⟩ := List.getElem?_eq_some_iff.1 hk
  rw [List.getElem_range, State.entryAt, addW_fill hc hg] at he
  exact he

/-- A release drops the entries in front of the cursor. -/
theorem State.contents_release {s : State} (hinv : s.Inv) (r : Ring) :
    State.contents { s with get := s.get.upd r (s.cCur.sel r) } r
      = (s.contents r).drop (fill s.cfg.idxW (s.cCur.sel r) (s.get.sel r)) := by
  obtain ⟨-, hg, hc, -⟩ := hinv.widths.indices r
  have hused := (s.inv_iff.1 hinv).2.1.used_release r r
  rw [if_pos rfl] at hused
  have hsel : (s.get.upd r (s.cCur.sel r)).sel r = s.cCur.sel r := by simp
  have hentry : ∀ k, State.entryAt { s with get := s.get.upd r (s.cCur.sel r) } r k
      = s.entryAt r (fill s.cfg.idxW (s.cCur.sel r) (s.get.sel r) + k) := by
    intro k
    rw [State.entryAt, State.entryAt, ← addW_addW, addW_fill hc hg]
    exact congrArg (fun g => s.readSlot r (addW s.cfg.idxW g k)) hsel
  refine List.ext_getElem? fun k => ?_
  rw [State.contents, State.contents, hused, List.getElem?_drop, List.getElem?_map, List.getElem?_map]
  by_cases hk : k < s.used r - fill s.cfg.idxW (s.cCur.sel r) (s.get.sel r)
  · rw [List.getElem?_range hk, List.getElem?_range (by omega), Option.map_some, Option.map_some, hentry]
  · rw [List.getElem?_eq_none (by simpa using hk), List.getElem?_eq_none (by rw [List.length_range]; omega)]
    rfl

/-- Settles O18. -/
theorem consumerReadsInOrder : Obligations.ConsumerReadsInOrder := by
  intro s r hinv hh hp
  refine ⟨fun e hne hat => ?next, ?release⟩
  case next =>
    refine ⟨_, _, shownAs_zext s.cfg.frameW e, (exec_rbPopn hh hp r).trans
      (State.popNext_of_read hne (State.readSlot_cursor hinv hat)), State.contents_congr_view rfl rfl rfl, ?_, ?_⟩
    · rw [State.respond_log, hp]
    · simp [addW]
  case release => exact ⟨_, exec_rbPopr hh hp r, (State.contents_ports _ r _ _ _ _ _).trans (State.contents_release hinv r)⟩

end Sys2Proof.Machine

/-! Unit TSR (42_timestamp) in the words of the statements: what a batch latches, its pass 2 and its publish, the two status
producers, and the bounds of a duration; and where the model stops by name. -/

namespace Sys2Proof.Machine

/-! Operands of the command on the port -/

theorem State.opa_of_presented {s : State} {q : Port} {cmd : Command} (hq : s.port = q) (hp : s.presented q = some cmd) :
    s.opa = cmd.opa := by
  simp [State.opa, hq, hp]

theorem State.time_of_presented {s : State} {q : Port} {cmd : Command} (hq : s.port = q) (hp : s.presented q = some cmd) :
    s.time = cmd.opa.toNat % 2 ^ s.cfg.tsW := by
  rw [State.time, State.opa_of_presented hq hp]

theorem extractLsb'_zero_eq_setWidth (x : Word) : x.extractLsb' 0 8 = x.setWidth 8 := by
  apply BitVec.eq_of_toNat_eq
  rw [BitVec.extractLsb'_toNat, BitVec.toNat_setWidth, Nat.shiftRight_zero]

theorem State.retry_of_presented {s : State} {q : Port} {cmd : Command} (hq : s.port = q) (hp : s.presented q = some cmd) :
    s.retry = cmd.opb.setWidth 8 := by
  subst hq
  rw [State.retry, State.opb_of_presented hp, extractLsb'_zero_eq_setWidth]

/-! The status producers (R163, R164) -/

theorem statusEntry_eq (ts : Nat) (code : BitVec 8) (phase dir kind : Bool) : statusEntry ts code phase dir kind =
    ts * 2 ^ 16 + code.toNat * 2 ^ 8 + phase.toNat * 4 + dir.toNat * 2 + kind.toNat := by
  unfold statusEntry cat
  ring

theorem exec_tsBst {s : State} (hh : s.halted = false) (hp : s.port = .p) (code : BitVec 8) :
    exec (.tsBst code) s = s.pushStep .stq (statusEntry s.time code false false false) :=
  State.checked_legal hh (State.legal_of_mem_ports hp (.head _) rfl rfl) _

theorem exec_tsBer {s : State} (hh : s.halted = false) (hp : s.port = .p) (code : BitVec 8) (dir phase : Bool) :
    exec (.tsBer code dir phase) s = s.pushStep .stq (statusEntry s.time code phase dir true) :=
  State.checked_legal hh (State.legal_of_mem_ports hp (.head _) rfl rfl) _

/-- Settles O23: `TS.BST` is a single push of its status entry. -/
theorem tsBstPushesStatus : Obligations.TsBstPushesStatus := by
  intro s code cmd hh hp hcmd
  refine pushRule_of_exec_eq (exec_tsBst hh hp code) (congrArg _ ?_)
  rw [statusEntry_eq, State.time_of_presented hp hcmd]
  simp only [Bool.toNat_false, Nat.zero_mul, Nat.add_zero]

/-- Settles O24: `TS.BER` is a single push of its error entry. -/
theorem tsBerPushesError : Obligations.TsBerPushesError := by
  intro s code dir phase cmd hh hp hcmd
  refine pushRule_of_exec_eq (exec_tsBer hh hp code dir phase) (congrArg _ ?_)
  rw [statusEntry_eq, State.time_of_presented hp hcmd]
  rfl

/-! LATCH (R152, R153) -/

theorem State.legal_tsRxb {s : State} (hp : s.port = .p) {n : BitVec 16} (hn : n.toNat ≤ s.cfg.batchMax) :
    s.legal (.tsRxb n) = true :=
  State.legal_of_mem_ports hp (.head _) (decide_eq_true hn) rfl

theorem State.legal_tsTxb {s : State} {cmd : Command} (hp : s.port = .p) (hcmd : s.presented .p = some cmd) {n : BitVec 16}
    (hn : n.toNat ≤ s.cfg.batchMax) (hopb : cmd.opb.toNat < 2 ^ 8) : s.legal (.tsTxb n) = true := by
  refine State.legal_of_mem_ports hp (.head _) (decide_eq_true hn) (decide_eq_true ?_)
  rw [State.opb_of_presented (cmd := cmd) (by rw [hp, hcmd])]
  exact (extract_high24_eq_zero_iff _).2 hopb

theorem State.batchStep_idle {s : State} {ring : Ring} {n : BitVec 16} {retry : BitVec 8} (h : s.pPhase = .idle) :
    s.batchStep ring n retry = .next (s.latch ring n retry) := by simp only [State.batchStep, h]

theorem State.latch_empty (s : State) (ring : Ring) (retry : BitVec 8) : s.latch ring 0 retry =
    ({ s with
      pRing := ring, pN := 0, pDesc := s.wdata, pRetry := retry, pT := s.time, pI := 0
      pPut := s.put.sel ring, pStored := 0, pDropped := 0 } : State).answered [] ⟨true, 0, 0, 0⟩ := by
  obtain ⟨-, heq⟩ | ⟨hne, -⟩ := s.latch_cases ring 0 retry
  · rw [heq, State.respond_eq_answered]
  · exact absurd rfl hne

theorem State.latch_of_ne {s : State} {n : BitVec 16} (hn : n ≠ 0) (ring : Ring) (retry : BitVec 8) :
    s.latch ring n retry =
      { s with
        pRing := ring, pN := n, pDesc := s.wdata, pRetry := retry, pT := s.time, pI := n
        pPut := s.put.sel ring, pStored := 0, pDropped := 0, pPhase := .pass1 } := by
  obtain ⟨hz, -⟩ | ⟨-, heq⟩ := s.latch_cases ring n retry
  · exact absurd hz hn
  · exact heq

/-- Settles O20: either command latches its ring, its retry count and its buses, and the empty batch answers at once. -/
theorem batchLatches : Obligations.BatchLatches := by
  intro s n cmd hh hp hcmd hph hn
  have hw := State.wdata_of_presented hp hcmd
  have ht := State.time_of_presented hp hcmd
  have hr := State.retry_of_presented hp hcmd
  have hrx : exec (.tsRxb n) s = .next (s.latch .rxq n 0) :=
    (State.checked_legal hh (State.legal_tsRxb hp hn) _).trans (State.batchStep_idle hph)
  have htx : cmd.opb.toNat < 2 ^ 8 → exec (.tsTxb n) s = .next (s.latch .txrq n (cmd.opb.setWidth 8)) := fun hopb =>
    hr ▸ (State.checked_legal hh (State.legal_tsTxb hp hcmd hn hopb) _).trans (State.batchStep_idle hph)
  refine ⟨fun h0 => ?rxEmpty, fun h0 => ?rx, fun h0 hopb => ?txEmpty, fun h0 hopb => ?tx⟩
  case rxEmpty => rw [hrx, h0, State.latch_empty, hw, ht]; rfl
  case rx => rw [hrx, State.latch_of_ne h0, hw, ht]; rfl
  case txEmpty => rw [htx hopb, h0, State.latch_empty, hw, ht]; rfl
  case tx => rw [htx hopb, State.latch_of_ne h0, hw, ht]; rfl

/-! Pass 2 and the publish (R155) -/

theorem State.batchStep_pass2 {s : State} {ring : Ring} {n : BitVec 16} {retry : BitVec 8} (h : s.pPhase = .pass2) :
    s.batchStep ring n retry = s.passTwo := by simp only [State.batchStep, h]

theorem State.batchStep_batchPub {s : State} {ring : Ring} {n : BitVec 16} {retry : BitVec 8} (h : s.pPhase = .batchPub) :
    s.batchStep ring n retry = .next s.batchPub := by simp only [State.batchStep, h]

theorem State.passTwo_of_overfull {s : State} (h : s.cap s.pRing < fill s.cfg.idxW s.pPut (s.get.sel s.pRing)) :
    s.passTwo = .next (s.halt causeRing) :=
  if_pos (decide_eq_true h)

theorem State.passTwo_of_full {s : State} (h : fill s.cfg.idxW s.pPut (s.get.sel s.pRing) = s.cap s.pRing) :
    s.passTwo = .next { s with
      lost := s.lost.upd s.pRing (saturated s.cfg (s.lost.sel s.pRing)), pDropped := s.pDropped + 1, pI := s.pI + 1
      pPhase := if s.pI + 1 = s.pN then .batchPub else .pass2 } := by
  unfold State.passTwo State.overfull State.full
  rw [if_neg (by simp [h]), if_pos (decide_eq_true h), satinc_eq_saturated]
  rfl

theorem State.passTwo_of_room {s : State} {v : Nat} (h : fill s.cfg.idxW s.pPut (s.get.sel s.pRing) < s.cap s.pRing)
    (hv : s.pTmp.read s.pI.toNat = some v) : s.passTwo =
      .next { s.writeSlot s.pRing s.pPut (stamped s.cfg (descriptor s.cfg s.pDesc s.pI.toNat) v) with
        pPut := addW s.cfg.idxW s.pPut 1, pStored := s.pStored + 1, pI := s.pI + 1
        pPhase := if s.pI + 1 = s.pN then .batchPub else .pass2 } := by
  unfold State.passTwo State.overfull State.full
  rw [if_neg (by rw [decide_eq_true_eq]; omega), if_neg (by rw [decide_eq_true_eq]; omega), hv]
  simp only [withTime_eq_stamped, State.passTwoNext, State.writeSlot_pI, State.writeSlot_pN]

theorem State.passTwo_of_unwritten {s : State} (h : fill s.cfg.idxW s.pPut (s.get.sel s.pRing) < s.cap s.pRing)
    (hv : s.pTmp.read s.pI.toNat = none) : s.passTwo = .fault .unwrittenScratch := by
  unfold State.passTwo State.overfull State.full
  rw [if_neg (by rw [decide_eq_true_eq]; omega), if_neg (by rw [decide_eq_true_eq]; omega), hv]

/-- Settles O22, by the fill level of the local put index. -/
theorem batchPassTwoAndPublish : Obligations.BatchPassTwoAndPublish := by
  intro s i hh hl hb
  obtain ⟨ring, n, retry, hx⟩ := exec_of_isBatch hh hl hb
  rw [hx]
  refine ⟨fun hph hover => ?overfull, fun hph hfull => ?drop, fun v hph hroom hv => ?store, fun hph => ?publish⟩
  case overfull =>
    rw [State.batchStep_pass2 hph, State.passTwo_of_overfull hover, State.halt_causeRing_eq_answered]
  case drop => rw [State.batchStep_pass2 hph, State.passTwo_of_full hfull]
  case store =>
    rw [State.batchStep_pass2 hph, State.passTwo_of_room hroom hv, ← descriptor_eq]
    refine ⟨_, rfl, State.readSlotAt_writeSlot s s.pRing s.pPut _, ?_⟩
    rw [State.writeSlot_eq]
    rfl
  case publish => rw [State.batchStep_batchPub hph, State.batchPub_eq, cat]; rfl

/-! Durations (R157 to R161, R168) -/

/-- Settles O27: head 19, 64 payload bits, CRC 15, trailer 10 and the inter-frame estimate. -/
theorem classicFrameIs110Bits : Obligations.ClassicFrameIs110Bits := by
  intro P brs
  have hlen : dlcLen false false 8 = 8 := rfl
  rw [frameBits_classic, classicHead_eq, trailerBits_eq, hlen]
  refine ⟨fun h => ?_, fun h => ?_⟩ <;> rw [h] <;> rfl

theorem dlcLen_le (fdf rtr : Bool) (dlc : BitVec 4) : dlcLen fdf rtr dlc ≤ 64 := by
  revert fdf rtr dlc
  decide

/-- With the default bit-count parameters every frame has at least 29 bits in the nominal phase: the head and the trailer of
an FD frame that switches its rate; and no frame has more than 2^10 bits in either phase. -/
theorem frameBits_bounds {P : Params} (hifs : P.ifsBits = 2) (hsbc : P.fdSbcBits = 0) (xtd rtr fdf brs : Bool) (dlc : BitVec 4) :
    29 ≤ (frameBits P xtd rtr fdf brs dlc).1 ∧ (frameBits P xtd rtr fdf brs dlc).1 ≤ 2 ^ 10
      ∧ (frameBits P xtd rtr fdf brs dlc).2 ≤ 2 ^ 10 := by
  have hlen := dlcLen_le fdf rtr dlc
  have hhead : 19 ≤ classicHead xtd ∧ classicHead xtd ≤ 39 := by cases xtd <;> decide
  have hpre : 17 ≤ fdPre xtd ∧ fdPre xtd ≤ 36 := by cases xtd <;> decide
  have hmid : fdMid P (dlcLen true rtr dlc) ≤ 538 := by
    have := dlcLen_le true rtr dlc
    rw [fdMid_eq, hsbc]
    split <;> omega
  have htrailer : trailerBits P = 12 := by rw [trailerBits_eq, hifs]
  cases fdf with
  | false => rw [frameBits_classic, htrailer]; dsimp only; omega
  | true =>
    cases brs with
    | true => rw [frameBits_fd_brs, htrailer]; dsimp only; omega
    | false => rw [frameBits_fd_nominal, htrailer]; dsimp only; omega

/-- Settles O29: 29 bits of 2260 / 2^16 us each are 1 us, and no duration is long enough to wrap at 2^32 us. -/
theorem durationsPositive : Obligations.DurationsPositive := by
  intro s d retry ring hifs hsbc hmul hfrac hdur hover hnm hnm' hdt'
  obtain ⟨hmin, hmax, hdata⟩ := frameBits_bounds hifs hsbc (frameXtd d) (frameRtr d) (frameFdf d) (frameBrs d) (frameDlc d)
  change 29 ≤ (descBits s.cfg d).1 at hmin
  change (descBits s.cfg d).1 ≤ _ at hmax
  change (descBits s.cfg d).2 ≤ _ at hdata
  have hretry := retry.isLt
  have hextra : overheadBits s.cfg ring retry ≤ 2 ^ 9 := by
    rw [overheadBits_of_lookup_none (by rw [hover]; rfl), hmul]
    split <;> omega
  have hlow : 29 * 2260 ≤ ((descBits s.cfg d).1 + overheadBits s.cfg ring retry) * s.nmBt :=
    Nat.mul_le_mul (by omega) hnm
  have hhigh : ((descBits s.cfg d).1 + overheadBits s.cfg ring retry) * s.nmBt ≤ (2 ^ 10 + 2 ^ 9) * 2 ^ 32 :=
    Nat.mul_le_mul (by omega) hnm'.le
  have hhigh' : (descBits s.cfg d).2 * s.dtBt ≤ 2 ^ 10 * 2 ^ 32 := Nat.mul_le_mul hdata hdt'.le
  rw [State.durUs_of_lookup_none (by rw [hdur]; rfl), wholeMicroseconds, hfrac, Nat.shiftRight_eq_div_pow]
  dsimp only
  omega

/-! Where the model stops (U1, R266 c) -/

theorem State.pushStep_of_inBatch {s : State} (h : s.inBatch) (r : Ring) (e : Nat) :
    s.pushStep r e = .refused .commandWhileBusy := by
  obtain h | h | h := h <;> simp only [State.pushStep, h]

theorem State.batchStep_of_inPush {s : State} (h : s.inPush) (ring : Ring) (n : BitVec 16) (retry : BitVec 8) :
    s.batchStep ring n retry = .refused .commandWhileBusy := by
  obtain h | h := h <;> simp only [State.batchStep, h]

/-- A legal single push of a running block performs the micro-step of a push, whichever of the three it is. -/
theorem exec_of_isPush {s : State} {i : Instr} (hh : s.halted = false) (hl : s.legal i = true) (hk : isPush i = true) :
    ∃ r e, exec i s = s.pushStep r e := by
  cases i with
  | rbPush r => exact ⟨r, s.wEntry r, State.checked_legal hh hl _⟩
  | tsBst code => exact ⟨.stq, _, State.checked_legal hh hl _⟩
  | tsBer code dir phase => exact ⟨.stq, _, State.checked_legal hh hl _⟩
  | _ => cases hk

theorem State.popNext_of_unwritten {s : State} {r : Ring} (h : s.cCur.sel r ≠ s.cLim.sel r)
    (hread : s.readSlot r (s.cCur.sel r) = none) : s.popNext r = .fault .unwrittenSlot := by
  unfold State.popNext
  rw [if_neg h, hread]

theorem State.submit_of_no_place {s : State} {c : InChan} (hi : s.idleOff c = 0) (hlt : s.bufIn c < s.actOff c)
    (hmps : s.cfg.mpsIn.sel c < s.bufIn c) (hmod : s.actOff c % s.cfg.mpsIn.sel c = 0) :
    s.submit c = .fault .bankRange := by
  have hpad : ¬ s.padFits c = true := by simp [State.padFits, State.padNeeded, hmps, hmod, hlt]
  unfold State.submit State.submitThen
  rw [if_pos ((s.readyToSubmit_iff c).2 ⟨by omega, hi⟩), if_neg hpad]

/-- Settles O60. -/
theorem modelStopsByName : Obligations.ModelStopsByName := by
  intro s hh
  refine ⟨fun i hl hbusy => ?busy, fun r hp hne hread => ?slot, fun i hl hb hph hroom hv => ?scratch,
    fun i hl hb hph hmax => ?range, fun c hp hi hlt hmps hmod => ?bank⟩
  case busy =>
    obtain ⟨hk, hin⟩ | ⟨hb, hin⟩ := hbusy
    · obtain ⟨r, e, hx⟩ := exec_of_isPush hh hl hk
      rw [hx, State.pushStep_of_inBatch hin]
    · obtain ⟨ring, n, retry, hx⟩ := exec_of_isBatch hh hl hb
      rw [hx, State.batchStep_of_inPush hin]
  case slot => rw [exec_rbPopn hh hp, State.popNext_of_unwritten hne hread]
  case scratch =>
    obtain ⟨ring, n, retry, hx⟩ := exec_of_isBatch hh hl hb
    rw [hx, State.batchStep_pass2 hph, State.passTwo_of_unwritten hroom hv]
  case range =>
    obtain ⟨ring, n, retry, hx⟩ := exec_of_isBatch hh hl hb
    rw [hx, State.batchStep_pass1 hph]
    exact if_neg (Nat.not_lt.2 hmax)
  case bank => rw [exec_bcSub hh (.inl hp), State.submit_of_no_place hi hlt hmps hmod]

end Sys2Proof.Machine

/-! Units BCH and CH (43_bulk, 44_channel) in the words of the statements: completion, the soft reset, the bit timing and the
transmit request. -/

namespace Sys2Proof.Machine

/-! On its ports a command of a running block carries out its operation. -/

theorem exec_bcTxc {s : State} (hh : s.halted = false) (hp : s.port = .u) (c : InChan) :
    exec (.bcTxc c) s = s.guarded (s.inFlight c) (s.complete c) :=
  State.checked_legal hh (State.legal_of_mem_ports hp (.head _) rfl rfl) _

theorem exec_chTxrq {s : State} {m : BitVec 16} (hh : s.halted = false) (hp : s.port = .u) (hm : m.toNat ≤ s.bufIn .dataIn) :
    exec (.chTxrq m) s = s.transmitRequest m :=
  State.checked_legal hh (State.legal_of_mem_ports (i := .chTxrq m) hp (.head _) (decide_eq_true hm) rfl) _

theorem exec_chEn {s : State} (hh : s.halted = false) (hp : s.port = .t ∨ s.port = .u) (enable : Bool) :
    exec (.chEn enable) s = s.guarded (enable || s.producerIdle) (.next (s.setEnable enable)) :=
  State.checked_legal hh (State.legal_of_ports_t_u hp rfl rfl rfl) _

theorem exec_chRst {s : State} (hh : s.halted = false) (hp : s.port = .t ∨ s.port = .u) :
    exec .chRst s = s.guarded s.producerIdle (.next (s.softReset.respond { ok := true })) :=
  State.checked_legal hh (State.legal_of_ports_t_u hp rfl rfl rfl) _

theorem exec_chBt {s : State} (hh : s.halted = false) (hp : s.port = .t ∨ s.port = .u) (ph : BitPhase) :
    exec (.chBt ph) s = .next (s.setBitTiming ph) :=
  State.checked_legal hh (State.legal_of_ports_t_u hp rfl rfl rfl) _

/-! Guards (R265) -/

theorem State.guarded_true (s : State) (body : Result) : s.guarded true body = body := rfl

theorem State.guarded_false (s : State) (body : Result) : s.guarded false body = .next s := rfl

theorem State.producerIdle_eq_true {s : State} (h : s.pPhase = .idle) : s.producerIdle = true := decide_eq_true h

theorem State.producerIdle_eq_false {s : State} (h : s.pPhase ≠ .idle) : s.producerIdle = false := decide_eq_false h

theorem exec_chEn_false_of_busy {s : State} (hh : s.halted = false) (hp : s.port = .t ∨ s.port = .u) (hph : s.pPhase ≠ .idle) :
    exec (.chEn false) s = .next s := by
  rw [exec_chEn hh hp, State.producerIdle_eq_false hph, Bool.false_or, State.guarded_false]

theorem exec_chRst_of_busy {s : State} (hh : s.halted = false) (hp : s.port = .t ∨ s.port = .u) (hph : s.pPhase ≠ .idle) :
    exec .chRst s = .next s := by
  rw [exec_chRst hh hp, State.producerIdle_eq_false hph, State.guarded_false]

/-- Settles O50. -/
theorem guardedCommandsWait : Obligations.GuardedCommandsWait := by
  refine fun s hh => ⟨fun c hp hi => ?_, fun hp hph => ⟨exec_chRst_of_busy hh hp hph, exec_chEn_false_of_busy hh hp hph⟩⟩
  have hflight : s.inFlight c = false := decide_eq_false (not_not.2 hi)
  rw [exec_bcTxc hh hp, hflight, State.guarded_false]

/-! Enabling and the soft reset (R221, R225, R281) -/

/-- Settles O41. -/
theorem chEnStoresOrResets : Obligations.ChEnStoresOrResets := by
  refine fun s hh hp => ⟨?enables, fun hph => ?disables, exec_chEn_false_of_busy hh hp⟩
  case enables =>
    rw [exec_chEn hh hp, Bool.true_or, State.guarded_true, State.setEnable, State.emit_respond_eq_answered]
    rfl
  case disables =>
    rw [exec_chEn hh hp, State.producerIdle_eq_true hph, Bool.or_true, State.guarded_true, State.setEnable,
      State.emit_respond_eq_answered]
    rfl

/-- Settles O42: after the soft reset every get index is the put index and both offsets of every in-channel are 0. -/
theorem chRstResets : Obligations.ChRstResets := by
  refine fun s hh hp => ⟨fun hph => ⟨?resets, fun r => fill_self _ _, s.isReady_softReset⟩, exec_chRst_of_busy hh hp⟩
  rw [exec_chRst hh hp, State.producerIdle_eq_true hph, State.guarded_true, State.respond_eq_answered, State.softReset_eq]

/-! Bit timing and features (R222, U7) -/

/-- A slice as wide as its place: what the place holds of the shifted value (R8). -/
theorem ofNat_slice (v lo n : Nat) : BitVec.ofNat n (slice v lo n) = BitVec.ofNat n (v / 2 ^ lo) := by
  apply BitVec.eq_of_toNat_eq
  rw [slice, Nat.shiftRight_eq_div_pow, BitVec.toNat_ofNat, BitVec.toNat_ofNat, Nat.mod_mod]

theorem State.bitTime_of_presented {s : State} {cmd : Command} (hp : s.presented s.port = some cmd) :
    s.bitTime = cmd.opa.toNat % 2 ^ s.cfg.btW := by
  rw [State.bitTime, State.opa_of_presented rfl hp]

/-- Settles O43, by the phase. -/
theorem chBtStoresTiming : Obligations.ChBtStoresTiming := by
  rintro s cmd hh hp hcmd _ _ _ _ rfl rfl rfl rfl
  have hhalf : ∀ lo, s.wHalf lo = BitVec.ofNat 16 (cmd.wdata / 2 ^ lo) := fun lo => by
    rw [State.wHalf, ofNat_slice, State.wdata_of_presented rfl hcmd]
  have hlow : s.wHalf 0 = BitVec.ofNat 16 cmd.wdata := by rw [hhalf, Nat.pow_zero, Nat.div_one]
  rw [exec_chBt hh hp, exec_chBt hh hp, ← hlow, ← hhalf 16, ← hhalf 32, ← hhalf 48, ← State.bitTime_of_presented hcmd]
  exact ⟨congrArg _ (State.emit_respond_eq_answered _ _ _), congrArg _ (State.emit_respond_eq_answered _ _ _)⟩

/-- Settles O45: the value reported is the free value of U7. -/
theorem conflictingFeaturesRefused : Obligations.ConflictingFeaturesRefused := by
  intro s mask hh hp hnone hconf
  refine ⟨(Config.conflictBits s.feat mask).toNat, ?_⟩
  have hconflict : s.featConflict mask = true := List.contains_iff_mem.2 hconf
  rw [exec_chFor hh hp]
  obtain ⟨hbad, -⟩ | ⟨-, -, heq⟩ | ⟨-, hnot, -⟩ := s.orFeatures_cases mask
  · exact absurd hnone hbad
  · rw [heq, State.respond_eq_answered]; rfl
  · rw [hnot] at hconflict; cases hconflict

/-! Completion (R198) -/

/-- A byte of a transmit bank after the padding (R195). -/
theorem State.readBank_padBank (s : State) (c c' : InChan) (b : Bank) (k : Nat) :
    (s.padBank c).readBank c' b k =
      if c' = c ∧ b = s.act.sel c ∧ s.actOff c ≤ k ∧ k < paddedLength s.cfg c (s.actOff c) then some 0
      else s.readBank c' b k := by
  rw [← State.readBank_doSubmit]
  exact congrArg (fun bank => ((PerIn.sel bank c').sel b).read k) (s.doSubmit_bank c).symm

theorem State.complete_of_empty {s : State} {c : InChan} (h : s.actOff c = 0) :
    s.complete c = .next ((s.setOff c (s.act.sel c).other 0).respond { ok := true }) :=
  if_pos h

theorem State.complete_of_data {s : State} {c : InChan} (ha : s.actOff c ≠ 0) (hle : s.actOff c ≤ s.bufIn c) :
    s.complete c = .next (({ s with
        bank := (s.padBank c).bank
        off := s.off.upd c (((s.off.sel c).upd (s.act.sel c).other 0).upd (s.act.sel c) (s.paddedLen c (s.actOff c)))
        act := s.act.upd c (s.act.sel c).other } : State).answered
        [.xferStart (.inn c) (s.act.sel c) (s.paddedLen c (s.actOff c))]
        ⟨true, 0, zext 32 (s.paddedLen c (s.actOff c)), 0⟩) := by
  have hact : (s.setOff c (s.act.sel c).other 0).actOff c = s.actOff c := by simp [State.actOff, State.offOf]
  have hfits : (s.setOff c (s.act.sel c).other 0).padFits c = true := State.padFits_of_le (hact.trans_le hle)
  unfold State.complete State.submitThen
  dsimp only
  rw [if_neg ha, if_pos hfits, State.doSubmit_setOff_other_respond]

/-- Settles O35, by whether the active bank has data. -/
theorem bcTxcCompletes : Obligations.BcTxcCompletes := by
  intro s c hh hp hi
  have hflight : s.inFlight c = true := decide_eq_true hi
  rw [exec_bcTxc hh hp, hflight, State.guarded_true]
  refine ⟨fun h0 => ?empty, fun len ha hle hlen => ?resubmits⟩
  case empty => rw [State.complete_of_empty h0, State.respond_eq_answered]; rfl
  case resubmits =>
    rw [hlen, ← State.paddedLen_eq]
    refine ⟨_, _, State.complete_of_data ha hle, shownAs_zext 32 _, fun c' b k => ?_, rfl⟩
    rw [State.paddedLen_eq]
    exact s.readBank_padBank c c' b k

/-! The transmit request (R227) -/

theorem State.transmitRequest_of_slot {s : State} {m : BitVec 16} (h : s.txAvail ≠ 0) : s.transmitRequest m =
    .next (({ s with txAvail := s.txAvail - 1 } : State).answered [.requestTransmit s.wFrame] ⟨true, 0, 0, 0⟩) :=
  (if_pos h).trans (congrArg _ (State.emit_respond_eq_answered _ _ _))

theorem State.transmitRequest_of_none {s : State} {m : BitVec 16} (h : s.txAvail = 0) :
    s.transmitRequest m = (s.withDrop (saturated s.cfg s.txDropped) s.literalDesync).placeReceipt m := by
  rw [← satinc_eq_saturated]
  exact if_neg (not_not.2 h)

/-- The receipt fits into the active bank of channel 1. -/
theorem State.transmitRequest_of_fits {s : State} {m : BitVec 16} (h : s.txAvail = 0)
    (hfits : s.actOff .dataIn + m.toNat ≤ s.bufIn .dataIn) : s.transmitRequest m =
      .next (({ s with
        txDropped := saturated s.cfg s.txDropped, desync := s.literalDesync
        bank := (s.writeBank .dataIn (s.act.sel .dataIn) (s.actOff .dataIn) (s.receipt m)).bank
        off := s.off.upd .dataIn ((s.off.sel .dataIn).upd (s.act.sel .dataIn) (s.actOff .dataIn + m.toNat)) } :
          State).answered [] ⟨false, 0, 1, 0⟩) := by
  rw [State.transmitRequest_of_none h, State.placeReceipt]
  refine (if_pos (decide_eq_true hfits)).trans ?_
  rw [State.append_withDrop, State.append_eq, State.respond_eq_answered]
  rfl

/-- The receipt goes into the other bank, after a submit of the active one. -/
theorem State.transmitRequest_of_ready {s : State} {m : BitVec 16} (h : s.txAvail = 0)
    (hlong : s.bufIn .dataIn < s.actOff .dataIn + m.toNat) (hidle : s.idleOff .dataIn = 0)
    (hle : s.actOff .dataIn ≤ s.bufIn .dataIn) : s.transmitRequest m =
      .next (({ s with
        txDropped := saturated s.cfg s.txDropped, desync := s.literalDesync
        bank := ((s.padBank .dataIn).writeBank .dataIn (s.act.sel .dataIn).other 0 (s.receipt m)).bank
        off := s.off.upd .dataIn
          (((s.off.sel .dataIn).upd (s.act.sel .dataIn) (s.paddedLen .dataIn (s.actOff .dataIn))).upd
            (s.act.sel .dataIn).other m.toNat)
        act := s.act.upd .dataIn (s.act.sel .dataIn).other } : State).answered
        [.xferStart (.inn .dataIn) (s.act.sel .dataIn) (s.paddedLen .dataIn (s.actOff .dataIn))] ⟨false, 0, 2, 0⟩) := by
  have hfits : ¬ s.fits .dataIn m = true := by rw [State.fits, decide_eq_true_eq]; omega
  have hready : s.isReady .dataIn = true := decide_eq_true hidle
  have hpad : s.padFits .dataIn = true := State.padFits_of_le hle
  have hrespond : ∀ (x : State) (a : Nat) (b : Bool) (r : Response),
      (x.withDrop a b).respond r = (x.respond r).withDrop a b := fun _ _ _ _ => rfl
  rw [State.transmitRequest_of_none h, State.placeReceipt]
  refine (if_neg hfits).trans ((if_pos hready).trans ((if_pos hpad).trans ?_))
  rw [State.doSubmit_withDrop]
  beta_reduce
  rw [State.append_withDrop, hrespond]
  exact congrArg (fun x : State => Host.Outcome.next (x.withDrop _ _)) (State.doSubmit_append_respond hidle m _ _)

/-- The receipt is lost. -/
theorem State.transmitRequest_of_busy {s : State} {m : BitVec 16} (h : s.txAvail = 0)
    (hlong : s.bufIn .dataIn < s.actOff .dataIn + m.toNat) (hidle : s.idleOff .dataIn ≠ 0) : s.transmitRequest m =
      .next (({ s with txDropped := saturated s.cfg s.txDropped, desync := true } : State).answered [] ⟨false, 0, 3, 0⟩) := by
  have hfits : ¬ s.fits .dataIn m = true := by rw [State.fits, decide_eq_true_eq]; omega
  have hready : ¬ s.isReady .dataIn = true := by rw [State.isReady, decide_eq_true_eq]; exact hidle
  rw [State.transmitRequest_of_none h, State.placeReceipt]
  refine (if_neg hfits).trans ((if_neg hready).trans ?_)
  rw [State.respond_eq_answered]
  rfl

theorem State.literalDesync_of_spec {s : State} (h : s.cfg.desyncLiteral = false) : s.literalDesync = s.desync := by
  rw [State.literalDesync, h, Bool.false_and, Bool.or_false]

theorem State.receipt_length (s : State) (m : BitVec 16) : (s.receipt m).length = m.toNat := busBytes_length _ _ _

/-- Byte `k` of the receipt (R227). -/
theorem State.receipt_getElem? {s : State} {q : Port} {cmd : Command} (hq : s.port = q) (hp : s.presented q = some cmd)
    {m : BitVec 16} {k : Nat} (hk : k < m.toNat) :
    (s.receipt m)[k]? = some (BitVec.ofNat 8 (cmd.wdata / 2 ^ (s.cfg.frameW + 8 * k))) := by
  rw [State.receipt, busBytes_getElem? _ _ _ _ hk, ofNat_slice, State.wdata_of_presented hq hp]

theorem State.wFrame_of_presented {s : State} {q : Port} {cmd : Command} (hq : s.port = q) (hp : s.presented q = some cmd) :
    s.wFrame = cmd.wdata % 2 ^ s.cfg.frameW := by
  rw [State.wFrame, slice, Nat.shiftRight_zero, State.wdata_of_presented hq hp]

/-- Settles O48: the four outcomes, by the slot count, the room and the other bank. -/
theorem chTxrqOutcomes : Obligations.ChTxrqOutcomes := by
  rintro s m cmd _ _ _ hlit hh hp hcmd hm rfl rfl rfl
  rw [exec_chTxrq hh hp hm]
  refine ⟨fun hslot => ?sent, fun h0 hfits => ?placed, fun len h0 hlong hi hle hlen => ?submitted, fun h0 hlong hi => ?lost⟩
  case sent => rw [State.transmitRequest_of_slot hslot, State.wFrame_of_presented hp hcmd]
  case placed =>
    rw [State.transmitRequest_of_fits h0 hfits, State.literalDesync_of_spec hlit]
    refine ⟨_, rfl, fun c b k => ?_, rfl⟩
    refine (s.readBank_writeBank .dataIn (s.act.sel .dataIn) (s.actOff .dataIn) (s.receipt m) c b k).trans ?_
    rw [State.receipt_length]
    refine if_ctx_congr .rfl ?_ fun _ => rfl
    rintro ⟨-, -, hlo, hhi⟩
    exact State.receipt_getElem? hp hcmd (Nat.sub_lt_left_of_lt_add hlo hhi)
  case submitted =>
    subst hlen
    rw [State.transmitRequest_of_ready h0 hlong hi hle, State.literalDesync_of_spec hlit, State.paddedLen_eq]
    refine ⟨_, rfl, fun c b k => ?_, rfl⟩
    refine ((s.padBank .dataIn).readBank_writeBank .dataIn (s.act.sel .dataIn).other 0 (s.receipt m) c b k).trans ?_
    rw [State.receipt_length, State.readBank_padBank, Nat.zero_add]
    refine if_ctx_congr (by simp only [Nat.zero_le, true_and]; rfl) ?_ fun _ => rfl
    rintro ⟨-, -, hk⟩
    exact State.receipt_getElem? hp hcmd hk
  case lost => exact State.transmitRequest_of_busy h0 hlong hi

/-- Settles O49: with channel 1 not ready the receipt is placed under the `desync` of the reading, or lost. -/
theorem literalDesyncReading : Obligations.LiteralDesyncReading := by
  intro s t m hh hl h0 hready h
  have hx : exec (.chTxrq m) s = s.transmitRequest m := State.checked_legal hh hl _
  rw [hx] at h
  have hidle : s.idleOff .dataIn ≠ 0 := of_decide_eq_false hready
  by_cases hfits : s.actOff .dataIn + m.toNat ≤ s.bufIn .dataIn
  · rw [State.transmitRequest_of_fits h0 hfits] at h
    cases h
    refine ⟨fun hlit => ?_, fun hnot => absurd hfits (of_decide_eq_false hnot), fun hlit _ => ?_⟩
    · exact (by simp [State.literalDesync, hlit, hready] : s.literalDesync = true)
    · exact State.literalDesync_of_spec hlit
  · rw [State.transmitRequest_of_busy h0 (Nat.not_le.1 hfits) hidle] at h
    cases h
    exact ⟨fun _ => rfl, fun _ => rfl, fun _ hyes => absurd (of_decide_eq_true hyes) hfits⟩

end Sys2Proof.Machine

/-! What the bulk unit leaves alone and what it hands over (43_bulk, 10_state section 3): a bank in flight, the other channels,
and the bytes of a submitted bank. -/

namespace Sys2Proof.Machine

/-! A bank in flight (R35, R75) -/

/-- A write into the active bank leaves the other bank's bytes. -/
theorem State.readBank_writeBank_of_ne (s : State) (c c' : InChan) {b b' : Bank} (hb : b' ≠ b) (a k : Nat) (bs : List Byte) :
    (s.writeBank c b a bs).readBank c' b' k = s.readBank c' b' k := by
  rw [State.readBank_writeBank, if_neg fun h => hb h.2.1]

/-- The padding goes into the active bank. -/
theorem State.readBank_padBank_other (s : State) (c : InChan) (k : Nat) :
    (s.padBank c).readBank c (s.act.sel c).other k = s.readBank c (s.act.sel c).other k := by
  rw [State.readBank_padBank, if_neg fun h => Bank.other_ne _ h.2.1]

/-- The idle bank of channel c in `t` is that of `s`: its bytes, and but for a completion and a soft reset its offset. -/
def IdleBankKept (s : State) (c : InChan) (i : Instr) (t : State) : Prop :=
  (∀ k, t.readBank c (s.act.sel c).other k = s.readBank c (s.act.sel c).other k)
    ∧ (i ≠ .bcTxc c → i ≠ .chRst → i ≠ .chEn false → t.offOf c (s.act.sel c).other = s.idleOff c)

theorem State.SameIn.idleBankKept {s t : State} {c : InChan} (h : s.SameIn t c) (i : Instr) : IdleBankKept s c i t :=
  ⟨fun k => by rw [State.readBank, State.readBank, h.bank], fun _ _ _ => by rw [State.offOf, h.off]; rfl⟩

/-- A command of the bulk unit on channel c itself: it writes the active bank, and submits only where nothing is in flight. -/
theorem BulkStep.idleBankKept {s t : State} {i : Instr} {c : InChan} (hflight : s.idleOff c ≠ 0)
    (hw : writesIn c i = true) (hs : BulkStep s i t) : IdleBankKept s c i t := by
  cases hs with
  | appended c' len =>
    cases of_decide_eq_true hw
    exact ⟨fun k => s.readBank_writeBank_of_ne c c (Bank.other_ne _) _ k _,
      fun _ _ _ => by simp [State.answered, State.offOf, State.idleOff]⟩
  | noRoom => exact (State.SameIn.of_eq rfl rfl rfl).idleBankKept _
  | notReady => exact (State.SameIn.of_eq rfl rfl rfl).idleBankKept _
  | submitted c' idle =>
    cases of_decide_eq_true hw
    exact absurd idle hflight
  | waits => exact (State.SameIn.refl s c).idleBankKept _
  | completed c' =>
    cases of_decide_eq_true hw
    exact ⟨fun _ => rfl, fun hne => absurd rfl hne⟩
  | resubmitted c' =>
    cases of_decide_eq_true hw
    exact ⟨fun k => s.readBank_padBank_other c k, fun hne => absurd rfl hne⟩
  | reported => cases hw
  | received => cases hw

theorem ChannelStep.idleBankKept {s t : State} {i : Instr} {c : InChan} (hflight : s.idleOff c ≠ 0)
    (hw : writesIn c i = true) (hs : ChannelStep s i t) : IdleBankKept s c i t := by
  cases hs with
  | sent => exact (State.SameIn.of_eq rfl rfl rfl).idleBankKept _
  | placed m =>
    cases of_decide_eq_true hw
    exact ⟨fun k => s.readBank_writeBank_of_ne .dataIn .dataIn (Bank.other_ne _) _ k _,
      fun _ _ _ => by simp [State.answered, State.offOf, State.idleOff]⟩
  | submittedPlaced m _ _ idle =>
    cases of_decide_eq_true hw
    exact absurd idle hflight
  | lost => exact (State.SameIn.of_eq rfl rfl rfl).idleBankKept _
  | disabled => exact ⟨fun _ => rfl, fun _ _ hne => absurd rfl hne⟩
  | reset => exact ⟨fun _ => rfl, fun _ hne => absurd rfl hne⟩
  | waits => exact (State.SameIn.refl s c).idleBankKept _
  | _ => cases hw

/-- Settles O38. -/
theorem bankInFlightUntouched : Obligations.BankInFlightUntouched := by
  intro i s t c hflight h
  have hidle : s.idleOff c ≠ 0 := of_decide_eq_true hflight
  cases hw : writesIn c i with
  | false => exact (exec_sameIn hw h).idleBankKept i
  | true =>
    cases exec_microStep h with
    | halted => exact (State.SameIn.of_eq rfl rfl rfl).idleBankKept i
    | illegal => exact (State.SameIn.of_eq rfl rfl rfl).idleBankKept i
    | producer _ _ _ hs => cases hs <;> exact (State.SameIn.of_eq rfl rfl rfl).idleBankKept _
    | consumer _ _ _ hs => cases hs <;> exact (State.SameIn.of_eq rfl rfl rfl).idleBankKept _
    | bulk _ _ _ hs => exact hs.idleBankKept hidle hw
    | channel _ _ _ hs => exact hs.idleBankKept hidle hw

/-! What a submit hands over (R195, R196, R198, R227) -/

/-- The bytes below the offset, then the padding. -/
theorem State.transferBytes_of_padded {s t : State} {c : InChan} {a : Bank} {o len : Nat} (ho : o ≤ len)
    (hread : ∀ k, t.readBank c a k = if o ≤ k ∧ k < len then some 0 else s.readBank c a k) :
    t.transferBytes c a len = s.transferBytes c a o ++ List.replicate (len - o) (some 0) := by
  have hsplit : List.range len = List.range o ++ (List.range (len - o)).map (o + ·) := by
    rw [← List.range_add, Nat.add_sub_cancel' ho]
  rw [State.transferBytes, State.transferBytes, hsplit, List.map_append, List.map_map]
  refine congr_arg₂ _ (List.map_congr_left fun k hk => ?held) (List.eq_replicate_iff.2 ⟨?count, fun x hx => ?padding⟩)
  case held => rw [hread, if_neg fun h => absurd (List.mem_range.1 hk) (Nat.not_lt.2 h.1)]
  case count => rw [List.length_map, List.length_range]
  case padding =>
    obtain ⟨k, hk, rfl⟩ := List.mem_map.1 hx
    have := List.mem_range.1 hk
    exact (hread (o + k)).trans (if_pos ⟨Nat.le_add_right o k, by omega⟩)

theorem le_paddedLength (P : Params) (c : InChan) (o : Nat) : o ≤ paddedLength P c o := by
  unfold paddedLength
  split <;> omega

/-- Channel c of `s` has handed its active bank over with length `len`, in `t` (R194). -/
def HandsOver (s : State) (c : InChan) (len : Nat) (t : State) : Prop :=
  t.transferBytes c (s.act.sel c) len =
      s.transferBytes c (s.act.sel c) (s.actOff c) ++ List.replicate (len - s.actOff c) (some 0)
    ∧ (∃ r, t.log = s.log ++ [.event (.xferStart (.inn c) (s.act.sel c) len), .response s.port r])
    ∧ t.act.sel c = (s.act.sel c).other ∧ t.offOf c (s.act.sel c) = len

/-- What the three submitters have in common: the padding, the offset, the flip, and the one event before the answer. -/
theorem HandsOver.of_answered {s u : State} {c : InChan} {len : Nat} (r : Response) (hlog : u.log = s.log)
    (hport : u.port = s.port) (hact : u.act = s.act.upd c (s.act.sel c).other) (hoff : u.offOf c (s.act.sel c) = len)
    (hlen : len = paddedLength s.cfg c (s.actOff c))
    (hread : ∀ k, u.readBank c (s.act.sel c) k = if s.actOff c ≤ k ∧ k < len then some 0 else s.readBank c (s.act.sel c) k) :
    HandsOver s c len (u.answered [.xferStart (.inn c) (s.act.sel c) len] r) := by
  have ho : s.actOff c ≤ len := hlen ▸ le_paddedLength s.cfg c (s.actOff c)
  refine ⟨State.transferBytes_of_padded ho hread, ⟨r, ?log⟩, ?act, hoff⟩
  case log => simp [State.answered, hlog, hport]
  case act => exact (congrArg (PerIn.sel · c) hact).trans (PerIn.sel_upd_same ..)

/-- Settles O39, per submitter: `BC.SUB` by O34 (`bcSubSubmits`), the resubmit by O35 (`bcTxcCompletes`), the submit of a
transmit request by `State.transmitRequest_of_ready`. -/
theorem submitHandsOverBankBytes : Obligations.SubmitHandsOverBankBytes := by
  intro s c i len hh ha hle hby hlen
  suffices h : ∃ t, exec i s = .next t ∧ HandsOver s c len t from h
  obtain ⟨rfl, hp, hi⟩ | ⟨rfl, hp, hi⟩ | ⟨m, rfl, rfl, hp, hm, h0, hlong, hi⟩ := hby
  case inl =>
    obtain ⟨t, v, hx, -, hread, heq⟩ := (bcSubSubmits s c hh hp).2 len ha hi hle hlen
    refine ⟨t, hx, ?_⟩
    rw [heq]
    exact .of_answered _ rfl rfl rfl (by simp [State.offOf]) hlen fun k => (hread c _ k).trans (by simp)
  case inr.inl =>
    obtain ⟨t, v, hx, -, hread, heq⟩ := (bcTxcCompletes s c hh hp hi).2 len ha hle hlen
    refine ⟨t, hx, ?_⟩
    rw [heq]
    exact .of_answered _ rfl rfl rfl (by simp [State.offOf]) hlen fun k => (hread c _ k).trans (by simp)
  case inr.inr =>
    refine ⟨_, (exec_chTxrq hh hp hm).trans (State.transmitRequest_of_ready h0 hlong hi hle), ?_⟩
    rw [State.paddedLen_eq, ← hlen]
    refine .of_answered _ rfl rfl rfl (by simp [State.offOf]) hlen fun k => ?_
    refine ((s.padBank .dataIn).readBank_writeBank_of_ne .dataIn .dataIn (Bank.ne_other _) 0 k _).trans ?_
    simp [State.readBank_padBank, hlen]

/-! Other channels (R190) -/

/-- `f` puts something else into the state that the operations on in-channel c neither read nor write. -/
structure Beside (f : State → State) (c : InChan) : Prop where
  halted : ∀ s, (f s).halted = s.halted
  haltCause : ∀ s, (f s).haltCause = s.haltCause
  legal : ∀ s i, (f s).legal i = s.legal i
  cfg : ∀ s, (f s).cfg = s.cfg
  act : ∀ s, (f s).act.sel c = s.act.sel c
  offOf : ∀ s b, (f s).offOf c b = s.offOf c b
  wBytes : ∀ s n, (f s).wBytes n = s.wBytes n
  respond : ∀ s r, (f s).respond r = f (s.respond r)
  halt : ∀ s cause, (f s).halt cause = f (s.halt cause)
  setOff : ∀ s b v, (f s).setOff c b v = f (s.setOff c b v)
  append : ∀ s len bs, (f s).append c len bs = f (s.append c len bs)
  doSubmit : ∀ s, (f s).doSubmit c = f (s.doSubmit c)

namespace Beside

variable {f : State → State} {c : InChan}

theorem actOff (hf : Beside f c) (s : State) : (f s).actOff c = s.actOff c := by
  rw [State.actOff, hf.act, hf.offOf]; rfl

theorem idleOff (hf : Beside f c) (s : State) : (f s).idleOff c = s.idleOff c := by
  rw [State.idleOff, hf.act, hf.offOf]; rfl

theorem bufIn (hf : Beside f c) (s : State) : (f s).bufIn c = s.bufIn c := by
  rw [State.bufIn, hf.cfg]; rfl

theorem paddedLen (hf : Beside f c) (s : State) (len : Nat) : (f s).paddedLen c len = s.paddedLen c len := by
  rw [State.paddedLen_eq, State.paddedLen_eq, hf.cfg]

theorem padFits (hf : Beside f c) (s : State) : (f s).padFits c = s.padFits c := by
  simp only [State.padFits, State.padNeeded, hf.actOff, hf.bufIn, hf.cfg]

theorem bulkWrite (hf : Beside f c) (s : State) (len : BitVec 16) : (f s).bulkWrite c len = f (s.bulkWrite c len) := by
  simp only [State.bulkWrite, State.fits, hf.actOff, hf.bufIn, hf.wBytes, hf.append, hf.respond]
  exact (apply_ite f ..).symm

theorem submitThen (hf : Beside f c) {s t : State} {k k' : State → State} (hk : ∀ u, k' (f u) = f (k u))
    (h : s.submitThen c k = .next t) : (f s).submitThen c k' = .next (f t) := by
  obtain ⟨hpad, rfl⟩ := State.submitThen_next h
  unfold State.submitThen
  rw [hf.padFits, if_pos hpad, hf.doSubmit, hk]

theorem submit (hf : Beside f c) {s t : State} (h : s.submit c = .next t) : (f s).submit c = .next (f t) := by
  unfold State.submit State.readyToSubmit at h ⊢
  rw [hf.actOff, hf.idleOff]
  split at h
  · rw [if_pos ‹_›]
    exact hf.submitThen (fun u => by rw [hf.respond, hf.paddedLen]) h
  · rw [if_neg ‹_›, hf.halt]
    cases h
    rfl

theorem complete (hf : Beside f c) {s t : State} (h : s.complete c = .next t) : (f s).complete c = .next (f t) := by
  unfold State.complete at h ⊢
  dsimp only at h ⊢
  rw [hf.act, hf.actOff, hf.setOff]
  split at h
  · rw [if_pos ‹_›, hf.respond]
    cases h
    rfl
  · rw [if_neg ‹_›]
    exact hf.submitThen (fun u => by rw [hf.respond, hf.paddedLen]) h

/-- R190: a command on in-channel c does the same whatever stands beside it. -/
theorem exec (hf : Beside f c) {i : Instr} {len : BitVec 16}
    (hi : i = .bcWr c len ∨ i = .bcRdy c ∨ i = .bcSub c ∨ i = .bcTxc c) {s t : State}
    (h : Machine.exec i s = .next t) : Machine.exec i (f s) = .next (f t) := by
  obtain ⟨body, he⟩ := exec_eq_checked i s
  obtain ⟨hh, rfl⟩ | ⟨hh, hl, rfl⟩ | ⟨hh, hl, -⟩ := State.checked_next (he.symm.trans h)
  · rw [exec_of_halted ((hf.halted s).trans hh), State.refuseHalted, hf.haltCause, hf.respond]; rfl
  · rw [exec_of_not_legal ((hf.halted s).trans hh) ((hf.legal s i).trans hl), State.refuseIllegal, hf.respond]; rfl
  have run : ∀ body, Machine.exec i s = s.checked i body → body = .next t := fun body he =>
    (State.checked_legal hh hl body).symm.trans (he.symm.trans h)
  have runs : ∀ body, Machine.exec i (f s) = (f s).checked i body → Machine.exec i (f s) = body := fun body he =>
    he.trans (State.checked_legal ((hf.halted s).trans hh) ((hf.legal s i).trans hl) body)
  obtain rfl | rfl | rfl | rfl := hi
  · cases run _ rfl
    exact (runs _ rfl).trans (congrArg _ (hf.bulkWrite s len))
  · cases run _ rfl
    refine (runs _ rfl).trans ?_
    simp only [State.isReady, State.offsets, hf.idleOff, hf.actOff, hf.respond]
  · exact (runs _ rfl).trans (hf.submit (run _ rfl))
  · refine (runs _ rfl).trans ?_
    rw [State.inFlight, hf.idleOff]
    obtain ⟨hwait, rfl⟩ | ⟨hgo, hc⟩ := State.guarded_next (run _ rfl)
    · exact congrArg (State.guarded _ · _) hwait
    · exact (congrArg (State.guarded _ · _) hgo).trans (hf.complete hc)

end Beside

/-- Receive banks stand beside every in-channel. -/
theorem beside_withOut (c : InChan) (o : OutChan) (rbank : PerBank (Memory Byte)) (ract : Bank) :
    Beside (fun s => s.withOut o rbank ract) c where
  halted _ := rfl
  haltCause _ := rfl
  legal _ _ := rfl
  cfg _ := rfl
  act _ := rfl
  offOf _ _ := rfl
  wBytes _ _ := rfl
  respond _ _ := rfl
  halt _ _ := rfl
  setOff _ _ _ := rfl
  append s len bs := by rw [State.append_eq, State.append_eq]; rfl
  doSubmit s := by
    have hbank : ((s.withOut o rbank ract).padBank c).bank = (s.padBank c).bank := by
      have hneed : (s.withOut o rbank ract).padNeeded c ((s.withOut o rbank ract).actOff c)
        = s.padNeeded c (s.actOff c) := rfl
      unfold State.padBank
      rw [hneed]
      split <;> rfl
    rw [State.doSubmit_eq, State.doSubmit_eq s, State.doSubmit_bank, hbank]
    unfold State.withOut
    rfl

theorem PerIn.sel_upd_of_ne {α : Type} (x : PerIn α) {c c' : InChan} (h : c' ≠ c) (v : α) :
    (x.upd c' v).sel c = x.sel c := by
  rw [PerIn.sel_upd, if_neg h.symm]

theorem PerIn.upd_comm {α : Type} (x : PerIn α) {c c' : InChan} (h : c' ≠ c) (v w : α) :
    (x.upd c' v).upd c w = (x.upd c w).upd c' v := by
  refine PerIn.ext_sel fun d => ?_
  simp only [PerIn.sel_upd]
  split <;> split <;> simp_all

/-- The in-channels stand beside each other. -/
theorem beside_withIn {c c' : InChan} (hc : c' ≠ c) (bank : PerBank (Memory Byte)) (off : PerBank Nat) (act : Bank) :
    Beside (fun s => s.withIn c' bank off act) c where
  halted _ := rfl
  haltCause _ := rfl
  legal _ _ := rfl
  cfg _ := rfl
  act s := PerIn.sel_upd_of_ne s.act hc act
  offOf s b := congrArg (PerBank.sel · b) (PerIn.sel_upd_of_ne s.off hc off)
  wBytes _ _ := rfl
  respond _ _ := rfl
  halt _ _ := rfl
  setOff s b v := by simp only [State.withIn, State.setOff, PerIn.sel_upd_of_ne _ hc, PerIn.upd_comm _ hc]
  append s len bs := by
    simp only [State.append_eq, State.withIn, State.writeBank_bank, State.actOff, State.offOf, PerIn.sel_upd_of_ne _ hc,
      PerIn.upd_comm _ hc]
  doSubmit s := by
    have hoff : (s.withIn c' bank off act).actOff c = s.actOff c := by
      simp only [State.withIn, State.actOff, State.offOf, PerIn.sel_upd_of_ne _ hc]
    have hact : (s.withIn c' bank off act).act.sel c = s.act.sel c := PerIn.sel_upd_of_ne s.act hc act
    have hbank : ((s.withIn c' bank off act).padBank c).bank = (s.padBank c).bank.upd c' bank := by
      have hneed : (s.withIn c' bank off act).padNeeded c (s.actOff c) = s.padNeeded c (s.actOff c) := rfl
      unfold State.padBank
      rw [hoff, hact, hneed]
      split
      · simp only [State.withIn, State.writeBank_bank, PerIn.sel_upd_of_ne _ hc, PerIn.upd_comm _ hc]
      · rfl
    have hlen : (s.withIn c' bank off act).paddedLen c (s.actOff c) = s.paddedLen c (s.actOff c) := rfl
    rw [State.doSubmit_eq, State.doSubmit_eq s, State.doSubmit_bank, State.doSubmit_bank, hbank, hoff, hact, hlen]
    simp only [State.withIn, PerIn.sel_upd_of_ne _ hc, PerIn.upd_comm _ hc]

/-! Out-channels (R199) -/

theorem PerOut.sel_upd_of_ne {α : Type} (x : PerOut α) {c c' : OutChan} (h : c' ≠ c) (v : α) :
    (x.upd c' v).sel c = x.sel c := by
  rw [PerOut.sel_upd, if_neg h.symm]

theorem PerOut.upd_comm {α : Type} (x : PerOut α) {c c' : OutChan} (h : c' ≠ c) (v w : α) :
    (x.upd c' v).upd c w = (x.upd c w).upd c' v := by
  refine PerOut.ext_sel fun d => ?_
  simp only [PerOut.sel_upd]
  split <;> split <;> simp_all

/-- Everything after a receive, the bytes written out (R199). -/
theorem State.receive_eq_writeRbank (s : State) (c : OutChan) (n : BitVec 16) : s.receive c n =
    ({ s with
      rbank := s.rbank.upd c ((s.rbank.sel c).upd (s.ract.sel c) (((s.rbank.sel c).sel (s.ract.sel c)).writeRun 0 (s.wBytes n)))
      ract := s.ract.upd c (s.ract.sel c).other } : State).answered
      [.rxDeliver c (s.ract.sel c) n, .xferStart (.out c) (s.ract.sel c).other (s.bufOut c)] ⟨true, 0, n.toNat, 0⟩ :=
  s.receive_eq_answered c n

theorem State.receive_withIn (s : State) (c : OutChan) (n : BitVec 16) (o : InChan) (bank : PerBank (Memory Byte))
    (off : PerBank Nat) (act : Bank) : (s.withIn o bank off act).receive c n = (s.receive c n).withIn o bank off act := by
  rw [State.receive_eq_writeRbank, State.receive_eq_writeRbank]
  rfl

theorem State.receive_withOut {c c' : OutChan} (hc : c' ≠ c) (s : State) (n : BitVec 16) (rbank : PerBank (Memory Byte))
    (ract : Bank) : (s.withOut c' rbank ract).receive c n = (s.receive c n).withOut c' rbank ract := by
  simp only [State.receive_eq_writeRbank, State.withOut, State.answered, PerOut.sel_upd_of_ne _ hc, PerOut.upd_comm _ hc]
  rfl

/-- A receive does the same under every change `f` that it commutes with and that its checks do not see. -/
theorem exec_bcRxc_beside {f : State → State} {c : OutChan} {n : BitVec 16}
    (hhalted : ∀ s, (f s).halted = s.halted) (hlegal : ∀ s, (f s).legal (.bcRxc c n) = s.legal (.bcRxc c n))
    (hillegal : ∀ s, (f s).refuseIllegal = f s.refuseIllegal) (hrefuse : ∀ s, (f s).refuseHalted = f s.refuseHalted)
    (hreceive : ∀ s, (f s).receive c n = f (s.receive c n)) {s t : State} (h : exec (.bcRxc c n) s = .next t) :
    exec (.bcRxc c n) (f s) = .next (f t) := by
  obtain ⟨hh, rfl⟩ | ⟨hh, hl, rfl⟩ | ⟨hh, hl, hrun⟩ := State.checked_next (h : s.checked (.bcRxc c n) _ = _)
  · rw [exec_of_halted ((hhalted s).trans hh), hrefuse]
  · rw [exec_of_not_legal ((hhalted s).trans hh) ((hlegal s).trans hl), hillegal]
  · cases hrun
    exact (State.checked_legal ((hhalted s).trans hh) ((hlegal s).trans hl) _).trans (congrArg _ (hreceive s))

/-- A command of the bulk unit on an in-channel writes no receive bank. -/
theorem exec_receive_banks_eq {s t : State} {i : Instr} {c : InChan} {len : BitVec 16}
    (hi : i = .bcWr c len ∨ i = .bcRdy c ∨ i = .bcSub c ∨ i = .bcTxc c) (h : exec i s = .next t) :
    t.rbank = s.rbank ∧ t.ract = s.ract := by
  cases exec_microStep h with
  | halted => exact ⟨rfl, rfl⟩
  | illegal => exact ⟨rfl, rfl⟩
  | producer _ _ _ hs => cases hs <;> exact ⟨rfl, rfl⟩
  | consumer _ _ _ hs => cases hs <;> exact ⟨rfl, rfl⟩
  | bulk _ _ _ hs =>
    cases hs with
    | received => simp at hi
    | _ => exact ⟨rfl, rfl⟩
  | channel _ _ _ hs =>
    cases hs with
    | waits => exact ⟨rfl, rfl⟩
    | _ => simp at hi

/-- A receive writes its own bank and selector only. -/
theorem exec_bcRxc_writes {c c' : OutChan} (hc : c' ≠ c) {n : BitVec 16} {s t : State} (h : exec (.bcRxc c n) s = .next t) :
    t.rbank.sel c' = s.rbank.sel c' ∧ t.ract.sel c' = s.ract.sel c' ∧ t.off = s.off ∧ t.act = s.act ∧ t.bank = s.bank := by
  obtain ⟨r, rfl⟩ | run := exec_next h
  · exact ⟨rfl, rfl, rfl, rfl, rfl⟩
  · cases run _ rfl
    refine ⟨?_, ?_, ?_, ?_, ?_⟩ <;> simp [State.receive, hc]

theorem writesIn_of_ne {i : Instr} {c c' : InChan} {len : BitVec 16} (hc : c' ≠ c)
    (hi : i = .bcWr c len ∨ i = .bcRdy c ∨ i = .bcSub c ∨ i = .bcTxc c) : writesIn c' i = false := by
  obtain rfl | rfl | rfl | rfl := hi
  · exact decide_eq_false hc
  · rfl
  · exact decide_eq_false hc
  · exact decide_eq_false hc

/-- Settles O37. -/
theorem channelsIndependent : Obligations.ChannelsIndependent := by
  refine ⟨fun i c c' len s t hc hi h => ?inn, fun c c' n s t hc h => ⟨exec_bcRxc_writes hc h, fun rbank ract => ?rx,
    fun o bank off act => ?rxIn⟩⟩
  case inn =>
    have same := exec_sameIn (writesIn_of_ne hc hi) h
    exact ⟨⟨same.off, same.act, same.bank, exec_receive_banks_eq hi h⟩,
      fun bank off act => (beside_withIn hc bank off act).exec hi h,
      fun o rbank ract => (beside_withOut c o rbank ract).exec hi h⟩
  case rx =>
    refine exec_bcRxc_beside (f := fun s => s.withOut c' rbank ract) ?_ ?_ ?_ ?_ (fun s => s.receive_withOut hc n rbank ract) h
      <;> exact fun _ => rfl
  case rxIn =>
    refine exec_bcRxc_beside (f := fun s => s.withIn o bank off act) ?_ ?_ ?_ ?_ (fun s => s.receive_withIn c n o bank off act) h
      <;> exact fun _ => rfl

end Sys2Proof.Machine

/-! Runs (R12): a port in turn performs its command, and the runs of a whole push and of a write, a submit and a completion. -/

namespace Sys2Proof.Machine

/-! Steps and runs -/

/-- The step of the port that the turns name. -/
theorem step_of_turn {s : State} {q : Port} {tl : List Port} {cmd : Command} {rest : List Command} {i : Instr}
    (hturns : s.turns = q :: tl) (hinput : s.input.sel q = cmd :: rest) (hdec : decodeWord cmd.word = .ok i) :
    step s = exec i (s.select q) :=
  stepRunsDecodedCommand.1 s q cmd i (by rw [State.nextPort, hturns]) (by rw [State.presented, hinput]; rfl) hdec

theorem run_eq {M : Host.Core} (k : Nat) (s : M.State) : M.run (k + 1) s =
    match M.step s with
    | .next u => M.run k u
    | .fault r => .fault r
    | .refused r => .refused r := rfl

/-- A run begins with its first step. -/
theorem run_succ {M : Host.Core} {s u : M.State} (h : M.step s = .next u) (k : Nat) : M.run (k + 1) s = M.run k u := by
  rw [run_eq, h]

theorem run_add {M : Host.Core} {j : Nat} {s u : M.State} (h : M.run j s = .next u) (k : Nat) :
    M.run (j + k) s = M.run k u := by
  induction j generalizing s with
  | zero =>
    rw [Nat.zero_add]
    cases h
    rfl
  | succ j ih =>
    rw [Nat.succ_add, run_eq]
    rw [run_eq] at h
    cases hs : M.step s with
    | next s' => rw [hs] at h; exact ih h
    | fault r => rw [hs] at h; cases h
    | refused r => rw [hs] at h; cases h

/-! Contents after entries behind the put index -/

/-- The put index moved on by `m` entries is `m` entries further behind the get index (R122). -/
theorem State.addW_put_eq {s : State} (hinv : s.Inv) (r : Ring) (m : Nat) :
    addW s.cfg.idxW (s.put.sel r) m = addW s.cfg.idxW (s.get.sel r) (s.used r + m) := by
  obtain ⟨hp, hg, -⟩ := hinv.widths.indices r
  rw [← addW_addW, State.used, addW_fill hp hg]

theorem State.fill_addW_put {s : State} (hinv : s.Inv) {r : Ring} {m : Nat} (hroom : s.used r + m ≤ s.cap r) :
    fill s.cfg.idxW (addW s.cfg.idxW (s.put.sel r) m) (s.get.sel r) = s.used r + m := by
  have hcap : s.cap r < 2 ^ s.cfg.idxW := capValid_lt (Params.capValid_of_valid hinv.params r)
  rw [State.addW_put_eq hinv]
  exact fill_addW (hinv.widths.indices r).2.1 (Nat.lt_of_le_of_lt hroom hcap)

/-- The contents after `m` entries were stored behind the put index of one ring, and published (R73, R124, R155). -/
theorem State.contents_stored {s t : State} (hinv : s.Inv) {ring : Ring} {m : Nat} {e : Nat → Nat}
    (hroom : s.used ring + m ≤ s.cap ring) (hcfg : t.cfg = s.cfg) (hget : t.get = s.get)
    (hput : t.put = s.put.upd ring (addW s.cfg.idxW (s.put.sel ring) m))
    (hslots : ∀ j, j < m → t.readSlotAt ring (s.slotIndex ring (addW s.cfg.idxW (s.put.sel ring) j)) = some (e j))
    (hrest : ∀ r k, (∀ j, j < m → ¬(r = ring ∧ k = s.slotIndex ring (addW s.cfg.idxW (s.put.sel ring) j))) →
      t.readSlotAt r k = s.readSlotAt r k) :
    t.contents ring = s.contents ring ++ (List.range m).map (fun j => some (e j))
      ∧ ∀ r, r ≠ ring → t.contents r = s.contents r := by
  have hbehind := State.addW_put_eq hinv ring
  have hslot : ∀ r i, t.slotIndex r i = s.slotIndex r i := fun r i => by rw [State.slotIndex, hcfg]; rfl
  have hentry : ∀ r k, t.entryAt r k = t.readSlotAt r (s.slotIndex r (addW s.cfg.idxW (s.get.sel r) k)) := by
    intro r k
    rw [State.entryAt, State.readSlot, hslot, hcfg, hget]
  have hused : t.used ring = s.used ring + m := by
    simpa [State.used, hcfg, hget, hput] using State.fill_addW_put hinv hroom
  refine ⟨?ring, fun r hr => ?other⟩
  case ring =>
    rw [State.contents_eq_append (s := s) (by omega) ?held, hused, Nat.add_sub_cancel_left]
    case held =>
      intro k hk
      rw [hentry, hrest]
      · rfl
      · rintro j hj ⟨-, hsame⟩
        rw [hbehind] at hsame
        exact State.slotIndex_addW_ne hinv.params ring (s.get.sel ring) (by omega) (by omega) hsame
    refine congrArg (s.contents ring ++ ·) (List.map_congr_left fun j hj => ?_)
    rw [hentry, ← hbehind]
    exact hslots j (List.mem_range.1 hj)
  case other =>
    refine State.contents_congr ?_ fun k _ => ?_
    · simp [State.used, hcfg, hget, hput, hr]
    · rw [hentry, hrest]
      · rfl
      · exact fun j _ h => hr h.1

/-! A whole push (R124) -/

/-- A step of port P that presents `RB.PUSH r`. -/
theorem step_rbPush {s : State} {r : Ring} {cmd : Command} {rest : List Command} {tl : List Port} (hh : s.halted = false)
    (hturns : s.turns = .p :: tl) (hinput : s.input.sel .p = cmd :: rest) (hdec : decodeWord cmd.word = .ok (.rbPush r)) :
    step s = (s.select .p).pushStep r ((s.select .p).wEntry r) :=
  (step_of_turn hturns hinput hdec).trans (exec_rbPush (s := s.select .p) hh rfl r)

/-- The three steps of a push with room: the slot of `put` is written, the index published, the command answered. -/
theorem run_rbPush {s : State} {r : Ring} {cmd : Command} {rest : List Command} {tl : List Port} (hh : s.halted = false)
    (hph : s.pPhase = .idle) (hturns : s.turns = [.p, .p, .p] ++ tl) (hinput : s.input.sel .p = cmd :: rest)
    (hdec : decodeWord cmd.word = .ok (.rbPush r)) (hroom : s.used r < s.cap r) :
    ∃ t, Sys2Proof.core.run 3 s = .next t
      ∧ (∀ r' k, t.readSlotAt r' k =
          if r' = r ∧ k = s.slotIndex r (s.put.sel r) then some (storedForm s.cfg r cmd.wdata) else s.readSlotAt r' k)
      ∧ t.cfg = s.cfg ∧ t.get = s.get ∧ t.put = s.put.upd r (addW s.cfg.idxW (s.put.sel r) 1) ∧ t.pPhase = .idle
      ∧ t.input = s.input.upd .p rest := by
  have hchk := (step_rbPush hh hturns hinput hdec).trans
    ((State.pushStep_idle (s := s.select .p) hph).trans (congrArg _ (State.pushChk_of_room (s := s.select .p) hroom)))
  obtain ⟨u, hu⟩ : ∃ u : State, u = { s.select .p with pRing := r, pPhase := .pushWr } := ⟨_, rfl⟩
  have hwr : step u = .next ((u.select .p).pushWr ((u.select .p).wEntry r)) := by
    have huturns : u.turns = .p :: .p :: tl := by rw [hu]; exact congrArg List.tail hturns
    have huph : (u.select .p).pPhase = .pushWr := by rw [hu]; rfl
    have huinput : u.input.sel .p = cmd :: rest := by rw [hu]; exact hinput
    exact (step_rbPush (by rw [hu]; exact hh) huturns huinput hdec).trans (State.pushStep_pushWr huph)
  have hentry : storedForm s.cfg r ((u.select .p).wEntry r) = storedForm s.cfg r cmd.wdata := by
    have hpres : (u.select .p).presented .p = some cmd := by
      subst hu
      simp [State.presented, State.select, hinput]
    rw [← State.wdata_of_presented (s := u.select .p) rfl hpres]
    subst hu
    exact State.storedForm_wEntry _ r
  obtain ⟨v, hv⟩ : ∃ v : State, v = (u.select .p).pushWr ((u.select .p).wEntry r) := ⟨_, rfl⟩
  have hpub : step v = .next (v.select .p).pushPub := by
    have hvturns : v.turns = .p :: tl := by rw [hv, State.pushWr_eq, hu]; simp [State.select, hturns]
    have hvinput : v.input.sel .p = cmd :: rest := by rw [hv, State.pushWr_eq, hu]; simpa [State.select] using hinput
    have hvh : v.halted = false := by rw [hv, State.pushWr_eq, hu]; exact hh
    have hvph : (v.select .p).pPhase = .pushPub := by rw [hv, State.pushWr_eq]; rfl
    exact (step_rbPush hvh hvturns hvinput hdec).trans (State.pushStep_pushPub hvph)
  have hrun : Sys2Proof.core.run 3 s = .next (v.select .p).pushPub := by
    rw [← hu] at hchk
    rw [← hv] at hwr
    exact (run_succ (M := Sys2Proof.core) hchk 2).trans
      ((run_succ (M := Sys2Proof.core) hwr 1).trans (run_succ (M := Sys2Proof.core) hpub 0))
  refine ⟨_, hrun, fun r' k => ?slots, ?_⟩
  case slots =>
    have hkept : (v.select .p).pushPub.readSlotAt r' k = v.readSlotAt r' k := by
      rw [State.pushPub_eq_answered]
      cases r' <;> rfl
    rw [hkept, hv, State.readSlotAt_pushWr, ← hentry, hu]
    cases r' <;> rfl
  rw [State.pushPub_eq_answered, hv, State.pushWr_eq, hu]
  refine ⟨rfl, rfl, rfl, rfl, ?_⟩
  simp [State.answered, State.select, hinput]

/-- Settles O16: the run of the push, and what it makes of the contents. -/
theorem pushAppendsToContents : Obligations.PushAppendsToContents := by
  intro s r cmd rest tl hinv hh hph hinput hdec hturns hroom
  obtain ⟨t, hrun, hslots, hcfg, hget, hput, hidle, hin⟩ := run_rbPush hh hph hturns hinput hdec hroom
  have hat : ∀ j, j < 1 → addW s.cfg.idxW (s.put.sel r) j = s.put.sel r := fun j hj => by
    rw [Nat.lt_one_iff.1 hj, addW_zero (hinv.widths.indices r).1]
  obtain ⟨hring, hother⟩ := State.contents_stored (e := fun _ => storedForm s.cfg r cmd.wdata) hinv hroom hcfg hget hput
    (fun j hj => by rw [hslots, if_pos ⟨rfl, by rw [hat j hj]⟩])
    (fun r' k h => by rw [hslots, if_neg (by simpa [hat] using h)])
  exact ⟨t, hrun, hring, hother, hidle, hin⟩

/-! Write, submit and completion (R200) -/

/-- What the three commands find on their channel: the active bank, the two offsets, and who moves next. -/
structure ChannelAt (s : State) (c : InChan) (a : Bank) (act idle : Nat) (turns : List Port) (t u : List Command) : Prop where
  halted : s.halted = false
  active : s.act.sel c = a
  actOff : s.offOf c a = act
  idleOff : s.offOf c a.other = idle
  turns : s.turns = turns
  onT : s.input.t = t
  onU : s.input.u = u

namespace ChannelAt

variable {s : State} {c : InChan} {a : Bank} {act idle : Nat} {tl : List Port} {cmd : Command} {onT onU : List Command}

theorem actOff_select (h : ChannelAt s c a act idle tl onT onU) (q : Port) : (s.select q).actOff c = act := by
  have hact : (s.select q).act.sel c = a := h.active
  rw [State.actOff, hact]
  exact h.actOff

theorem idleOff_select (h : ChannelAt s c a act idle tl onT onU) (q : Port) : (s.select q).idleOff c = idle := by
  have hact : (s.select q).act.sel c = a := h.active
  rw [State.idleOff, hact]
  exact h.idleOff

/-- A write that fits. -/
theorem write {k : BitVec 16} (h : ChannelAt s c a act idle (.t :: tl) (cmd :: onT) onU)
    (hdec : decodeWord cmd.word = .ok (.bcWr c k)) (hfits : act + k.toNat ≤ s.bufIn c) :
    ∃ u, step s = .next u ∧ ChannelAt u c a (act + k.toNat) idle tl onT onU ∧ u.cfg = s.cfg
      ∧ u.log = s.log ++ [.response .t ⟨true, 0, zext 32 (act + k.toNat), 0⟩] := by
  have hact := h.actOff_select .t
  have hsel : (s.select .t).act.sel c = a := h.active
  have hx := (step_of_turn h.turns h.onT hdec).trans ((exec_bcWr (s := s.select .t) h.halted (.inl rfl) c k).trans
    (congrArg _ (State.bulkWrite_of_fits (s := s.select .t) (by rw [hact]; exact hfits))))
  rw [State.append_eq, State.respond_eq_answered, hact, hsel] at hx
  refine ⟨_, hx, ⟨h.halted, h.active, ?_, ?_, ?_, ?_, h.onU⟩, rfl, ?_⟩
  · simp [State.answered, State.offOf]
  · simpa [State.answered, State.offOf] using h.idleOff
  · simp [State.answered, State.select, h.turns]
  · simp [State.answered, State.select, PerPort.sel, PerPort.upd, h.onT]
  · simp [State.answered, State.select]

/-- A submit with nothing in flight: the active bank is handed over, the empty one becomes active. -/
theorem submit (h : ChannelAt s c a act 0 (.t :: tl) (cmd :: onT) onU) (hdec : decodeWord cmd.word = .ok (.bcSub c))
    (hdata : act ≠ 0) (hle : act ≤ s.bufIn c) :
    ∃ u, step s = .next u ∧ ChannelAt u c a.other 0 (paddedLength s.cfg c act) tl onT onU
      ∧ u.log = s.log ++ [.event (.xferStart (.inn c) a (paddedLength s.cfg c act)),
          .response .t ⟨true, 0, zext 32 (paddedLength s.cfg c act), 0⟩] := by
  have hact := h.actOff_select .t
  have hsel : (s.select .t).act.sel c = a := h.active
  have hx := (step_of_turn h.turns h.onT hdec).trans ((exec_bcSub (s := s.select .t) h.halted (.inl rfl) c).trans
    (State.submit_of_ready (s := s.select .t) (by rwa [hact]) (h.idleOff_select .t) (by rwa [hact])))
  rw [State.doSubmit_respond_eq_answered, hact, hsel, State.paddedLen_eq] at hx
  refine ⟨_, hx, ⟨h.halted, PerIn.sel_upd_same _ _ _, ?_, ?_, ?_, ?_, h.onU⟩, ?_⟩
  · simpa [State.answered, State.offOf] using h.idleOff
  · simp [State.answered, State.offOf]
  · simp [State.answered, State.select, h.turns]
  · simp [State.answered, State.select, PerPort.sel, PerPort.upd, h.onT]
  · simp [State.answered, State.select]

/-- A completion with the active bank empty. -/
theorem complete (h : ChannelAt s c a 0 idle (.u :: tl) onT (cmd :: onU)) (hdec : decodeWord cmd.word = .ok (.bcTxc c))
    (hflight : idle ≠ 0) :
    ∃ u, step s = .next u ∧ ChannelAt u c a 0 0 tl onT onU ∧ u.log = s.log ++ [.response .u ⟨true, 0, 0, 0⟩] := by
  have hi : (s.select .u).inFlight c = true := decide_eq_true (by rw [h.idleOff_select]; exact hflight)
  have hsel : (s.select .u).act.sel c = a := h.active
  have hx := (step_of_turn h.turns h.onU hdec).trans ((exec_bcTxc (s := s.select .u) h.halted rfl c).trans
    ((congrArg (State.guarded _ · _) hi).trans (State.complete_of_empty (h.actOff_select .u))))
  rw [State.respond_eq_answered, hsel] at hx
  refine ⟨_, hx, ⟨h.halted, h.active, ?_, ?_, ?_, h.onT, ?_⟩, ?_⟩
  · simpa [State.answered, State.setOff, State.offOf] using h.actOff
  · simp [State.answered, State.setOff, State.offOf]
  · simp [State.answered, State.select, h.turns]
  · simp [State.answered, State.select, PerPort.sel, PerPort.upd, h.onU]
  · simp [State.answered, State.select]

theorem off_eq (h : ChannelAt s c .b1 act idle tl onT onU) : s.off.sel c = ⟨idle, act⟩ := by
  rw [← h.actOff, ← h.idleOff]
  rfl

end ChannelAt

/-- Settles O40: the three steps, one after the other. -/
theorem writeSubmitComplete : Obligations.WriteSubmitComplete := by
  intro s c k w b x tl hh hoff hact hk hle hT hU hw hb hx hturns
  have h : ChannelAt s c .b0 0 0 (.t :: .t :: .u :: tl) [w, b] [x] :=
    ⟨hh, hact, by rw [State.offOf, hoff]; rfl, by rw [State.offOf, hoff]; rfl, hturns, hT, hU⟩
  obtain ⟨s₁, hs₁, h₁, hcfg, hlog₁⟩ := h.write hw (by rwa [Nat.zero_add])
  rw [Nat.zero_add] at h₁ hlog₁
  have hpos : 0 < paddedLength s.cfg c k.toNat := Nat.lt_of_lt_of_le hk (le_paddedLength _ _ _)
  obtain ⟨s₂, hs₂, h₂, hlog₂⟩ := h₁.submit hb hk.ne' (by rw [State.bufIn, hcfg]; exact hle)
  rw [hcfg] at h₂ hlog₂
  obtain ⟨s₃, hs₃, h₃, hlog₃⟩ := h₂.complete hx hpos.ne'
  have hrun : Sys2Proof.core.run 3 s = .next s₃ := (run_succ (M := Sys2Proof.core) hs₁ 2).trans
    ((run_succ (M := Sys2Proof.core) hs₂ 1).trans (run_succ (M := Sys2Proof.core) hs₃ 0))
  refine ⟨s₃, _, shownAs_zext 32 _, hrun, h₃.off_eq, decide_eq_true ?_, h₃.active, ?_⟩
  · rw [State.idleOff, h₃.active]
    exact h₃.idleOff
  · rw [hlog₃, hlog₂, hlog₁, zext_of_lt (bitVec_toNat_lt_32 (by decide) k)]
    simp

end Sys2Proof.Machine

/-! A whole batch (R152 to R155): the state of the block after every one of its `2n + 2` steps, as a function of what the
batch has done so far, and with it what the batch leaves behind. -/

namespace Sys2Proof.Machine

/-- A run ends with its last step. -/
theorem run_snoc {M : Host.Core} {j : Nat} {s u v : M.State} (h : M.run j s = .next u) (hlast : M.step u = .next v) :
    M.run (j + 1) s = .next v :=
  (run_add h 1).trans (run_succ hlast 0)

/-! Times and counts -/

/-- `a -W b` is the one value of the width that gives `a` back when `b` is added (R9). -/
theorem eq_subW_iff {w x : Nat} (hx : x < 2 ^ w) (a b : Nat) : x = subW w a b ↔ (x + b) % 2 ^ w = a % 2 ^ w := by
  have hback : (subW w a b + b) % 2 ^ w = a % 2 ^ w := by
    have hmod := Nat.div_add_mod b (2 ^ w)
    have hlt := Nat.mod_lt b (two_pow_pos w)
    have hsum : a + (2 ^ w - b % 2 ^ w) + b = a + 2 ^ w * (b / 2 ^ w + 1) := by
      rw [Nat.mul_add, Nat.mul_one]
      omega
    rw [subW, Nat.mod_add_mod, hsum, Nat.add_mul_mod_self_left]
  refine ⟨fun h => h ▸ hback, fun h => ?_⟩
  have hmod : x ≡ subW w a b [MOD 2 ^ w] := Nat.ModEq.add_right_cancel' b (h.trans hback.symm)
  rwa [Nat.ModEq, Nat.mod_eq_of_lt hx, Nat.mod_eq_of_lt (subW_lt w a b)] at hmod

theorem subW_zero (w a : Nat) : subW w a 0 = a % 2 ^ w :=
  ((eq_subW_iff (Nat.mod_lt a (two_pow_pos w)) a 0).2 (Nat.mod_mod a _)).symm

theorem subW_add (w a b c : Nat) : subW w a (b + c) = subW w (subW w a c) b := by
  have hc : (subW w a (b + c) + b) % 2 ^ w = subW w a c := by
    refine (eq_subW_iff (Nat.mod_lt _ (two_pow_pos w)) a c).2 ?_
    rw [Nat.mod_add_mod, Nat.add_assoc]
    exact (eq_subW_iff (subW_lt ..) a (b + c)).1 rfl
  exact (eq_subW_iff (subW_lt ..) _ _).2 (hc.trans (Nat.mod_eq_of_lt (subW_lt ..)).symm)

/-- The durations of the frames behind frame `i` (R154). -/
def newerDurations (dur : Nat → Nat) (n i : Nat) : Nat := ((List.range (n - 1 - i)).map fun k => dur (i + 1 + k)).sum

theorem newerDurations_last (dur : Nat → Nat) (n : Nat) : newerDurations dur n (n - 1) = 0 := by
  rw [newerDurations, Nat.sub_self]
  rfl

theorem newerDurations_eq_add (dur : Nat → Nat) {n i : Nat} (hi : i + 1 < n) :
    newerDurations dur n i = dur (i + 1) + newerDurations dur n (i + 1) := by
  have hcount : n - 1 - i = n - 1 - (i + 1) + 1 := by omega
  rw [newerDurations, hcount, List.range_succ_eq_map, List.map_cons, List.map_map, List.sum_cons, newerDurations]
  refine congrArg (dur (i + 1) + ·) (congrArg List.sum (List.map_congr_left fun k _ => congrArg dur ?_))
  change i + 1 + (k + 1) = i + 1 + 1 + k
  omega

theorem batchTime_eq (w : Nat) (dur : Nat → Nat) (poll n i : Nat) :
    batchTime w dur poll n i = subW w poll (newerDurations dur n i) := rfl

/-- The newest frame has the poll time. -/
theorem batchTime_last (w : Nat) (dur : Nat → Nat) (poll n : Nat) : batchTime w dur poll n (n - 1) = poll % 2 ^ w := by
  rw [batchTime_eq, newerDurations_last, subW_zero]

/-- Each older frame has the next one's time less its duration (R154). -/
theorem batchTime_eq_subW (w : Nat) (dur : Nat → Nat) (poll : Nat) {n i : Nat} (hi : i + 1 < n) :
    batchTime w dur poll n i = subW w (batchTime w dur poll n (i + 1)) (dur (i + 1)) := by
  rw [batchTime_eq, newerDurations_eq_add dur hi, subW_add, batchTime_eq]

/-- One more loss, counted from the start (R10, R25). -/
theorem saturated_min (P : Params) (c d : Nat) :
    saturated P (min (2 ^ P.cntW - 1) (c + d)) = min (2 ^ P.cntW - 1) (c + (d + 1)) := by
  unfold saturated
  split <;> omega

/-! Entries stored behind the put index -/

/-- `s` with the entries `e 0`, `e 1`, …, `e (m - 1)` in the slots from the put index of a ring on. -/
def State.withEntries (s : State) (ring : Ring) (e : Nat → Nat) : Nat → State
  | 0 => s
  | m + 1 => (s.withEntries ring e m).writeSlot ring (addW s.cfg.idxW (s.put.sel ring) m) (e m)

theorem State.withEntries_cfg (s : State) (ring : Ring) (e : Nat → Nat) (m : Nat) : (s.withEntries ring e m).cfg = s.cfg := by
  induction m with
  | zero => rfl
  | succ m ih => rw [State.withEntries, State.writeSlot_cfg, ih]

theorem State.withEntries_slotIndex (s : State) (ring : Ring) (e : Nat → Nat) (m : Nat) (r : Ring) (i : Nat) :
    (s.withEntries ring e m).slotIndex r i = s.slotIndex r i := by
  rw [State.slotIndex, State.withEntries_cfg]
  rfl

/-- Every other slot is as it was. -/
theorem State.readSlotAt_withEntries_of_ne {s : State} {ring : Ring} (e : Nat → Nat) {m : Nat} {r : Ring} {k : Nat}
    (h : ∀ j, j < m → ¬(r = ring ∧ k = s.slotIndex ring (addW s.cfg.idxW (s.put.sel ring) j))) :
    (s.withEntries ring e m).readSlotAt r k = s.readSlotAt r k := by
  induction m with
  | zero => rfl
  | succ m ih =>
    rw [State.withEntries, State.readSlotAt_writeSlot, State.withEntries_slotIndex, if_neg (h m (Nat.lt_succ_self m))]
    exact ih fun j hj => h j (Nat.lt_succ_of_lt hj)

/-- The slots of the entries, of which there are no more than the ring has slots. -/
theorem State.readSlotAt_withEntries {s : State} (hvalid : s.cfg.valid = true) {ring : Ring} (e : Nat → Nat) {m : Nat}
    (hm : m ≤ s.cap ring) {j : Nat} (hj : j < m) :
    (s.withEntries ring e m).readSlotAt ring (s.slotIndex ring (addW s.cfg.idxW (s.put.sel ring) j))
      = some (storedForm s.cfg ring (e j)) := by
  induction m with
  | zero => exact absurd hj (Nat.not_lt_zero j)
  | succ m ih =>
    rw [State.withEntries, State.readSlotAt_writeSlot, State.withEntries_slotIndex, State.withEntries_cfg]
    obtain hlt | rfl := Nat.lt_succ_iff_lt_or_eq.1 hj
    · rw [if_neg fun h => State.slotIndex_addW_ne hvalid ring (s.put.sel ring) hlt hm h.2]
      exact ih (Nat.le_of_succ_le hm) hlt
    · rw [if_pos ⟨rfl, rfl⟩]

/-! The state in the middle of a batch -/

/-- How far a batch is: the steps done, and what they made of P's working registers and of the counts. -/
structure BatchPoint where
  steps : Nat
  phase : Phase
  frame : Nat
  time : Nat
  scratch : Memory Nat
  stored : Nat
  dropped : Nat

/-- The entry that a batch stores of frame `j` (R154, R155). -/
def State.batchEntry (s : State) (cmd : Command) (ring : Ring) (n : BitVec 16) (retry : BitVec 8) (j : Nat) : Nat :=
  stamped s.cfg (descriptor s.cfg cmd.wdata j)
    (batchTime s.cfg.tsW (s.frameDur cmd retry ring) cmd.opa.toNat n.toNat j)

/-- The state at point `b` of the batch that P begins in `s`. -/
def State.batchAt (s : State) (cmd : Command) (ring : Ring) (n : BitVec 16) (retry : BitVec 8) (b : BatchPoint) : State :=
  { s with
    port := .p, turns := s.turns.drop b.steps, ticks := s.ticks + b.steps
    pPhase := b.phase, pRing := ring, pN := n, pDesc := cmd.wdata, pRetry := retry
    pI := BitVec.ofNat 16 b.frame, pT := b.time, pTmp := b.scratch
    pPut := addW s.cfg.idxW (s.put.sel ring) b.stored
    pStored := BitVec.ofNat 16 b.stored, pDropped := BitVec.ofNat 16 b.dropped
    lost := s.lost.upd ring (min (2 ^ s.cfg.cntW - 1) (s.lost.sel ring + b.dropped))
    slotRx := (s.withEntries ring (s.batchEntry cmd ring n retry) b.stored).slotRx
    slotTx := (s.withEntries ring (s.batchEntry cmd ring n retry) b.stored).slotTx
    slotSt := (s.withEntries ring (s.batchEntry cmd ring n retry) b.stored).slotSt }

section Batch

variable {s : State} {cmd : Command} {i : Instr} {ring : Ring} {n : BitVec 16} {retry : BitVec 8} {rest : List Command}
  {tl : List Port}

theorem State.select_batchAt (s : State) (cmd : Command) (ring : Ring) (n : BitVec 16) (retry : BitVec 8) (b : BatchPoint) :
    (s.batchAt cmd ring n retry b).select .p = s.batchAt cmd ring n retry { b with steps := b.steps + 1 } := by
  unfold State.select State.batchAt
  simp only [List.tail_drop, Nat.add_assoc]

theorem PerRing.upd_upd {α : Type} (x : PerRing α) (r : Ring) (v w : α) : (x.upd r v).upd r w = x.upd r w := by
  cases r <;> rfl

theorem PerRing.upd_sel {α : Type} (x : PerRing α) (r : Ring) : x.upd r (x.sel r) = x := by cases r <;> rfl

theorem PerRing.sel_upd_same {α : Type} (x : PerRing α) (r : Ring) (v : α) : (x.upd r v).sel r = v := by cases r <;> rfl

namespace State.BatchStart

theorem n_pos (h : s.BatchStart cmd i ring n retry rest tl) : 0 < n.toNat :=
  Nat.pos_of_ne_zero fun h0 => h.nonempty (BitVec.eq_of_toNat_eq h0)

/-- On P the command performs the micro-step of its batch, as long as it stands there. -/
theorem exec_eq (h : s.BatchStart cmd i ring n retry rest tl) {x : State} (hport : x.port = .p) (hh : x.halted = false)
    (hcfg : x.cfg = s.cfg) (hinput : x.input = s.input) : exec i x = x.batchStep ring n retry := by
  have hpres : x.presented .p = some cmd := by rw [State.presented, hinput, h.presented]; rfl
  have hmax : n.toNat ≤ x.cfg.batchMax := hcfg ▸ h.bounded
  obtain ⟨rfl, rfl, rfl⟩ | ⟨rfl, rfl, rfl, hopb⟩ := h.kind
  · exact State.checked_legal hh (State.legal_tsRxb hport hmax) _
  · rw [← State.retry_of_presented hport hpres]
    exact State.checked_legal hh (State.legal_tsTxb hport hpres hmax hopb) _

theorem turns_drop (h : s.BatchStart cmd i ring n retry rest tl) {j : Nat} (hj : j < 2 * n.toNat + 2) :
    ∃ tl', s.turns.drop j = .p :: tl' := by
  obtain ⟨m, hm⟩ : ∃ m, 2 * n.toNat + 2 - j = m + 1 := ⟨2 * n.toNat + 1 - j, by omega⟩
  refine ⟨List.replicate m .p ++ tl, ?_⟩
  rw [h.turns, List.drop_append_of_le_length (by rw [List.length_replicate]; omega), List.drop_replicate, hm]
  rfl

/-- A step in the middle of the batch. -/
theorem step_batchAt (h : s.BatchStart cmd i ring n retry rest tl) {b : BatchPoint} (hb : b.steps < 2 * n.toNat + 2) :
    step (s.batchAt cmd ring n retry b)
      = (s.batchAt cmd ring n retry { b with steps := b.steps + 1 }).batchStep ring n retry := by
  obtain ⟨tl', hturns⟩ := h.turns_drop hb
  have hstep : step (s.batchAt cmd ring n retry b) = exec i ((s.batchAt cmd ring n retry b).select .p) :=
    step_of_turn (s := s.batchAt cmd ring n retry b) hturns h.presented h.decoded
  rw [hstep, State.select_batchAt]
  exact h.exec_eq rfl h.running rfl rfl

/-- LATCH. -/
theorem step_latch (h : s.BatchStart cmd i ring n retry rest tl) :
    step s = .next (s.batchAt cmd ring n retry ⟨1, .pass1, n.toNat, cmd.opa.toNat % 2 ^ s.cfg.tsW, s.pTmp, 0, 0⟩) := by
  obtain ⟨tl', hturns⟩ := h.turns_drop (j := 0) (by omega)
  have hpres : (s.select .p).presented .p = some cmd := by
    have hin := h.presented
    simp [State.presented, State.select, hin]
  have hput : addW s.cfg.idxW (s.put.sel ring) 0 = s.put.sel ring := addW_zero (h.inv.widths.indices ring).1
  have hlost : s.lost.upd ring (min (2 ^ s.cfg.cntW - 1) (s.lost.sel ring + 0)) = s.lost := by
    have hlt := h.inv.widths.counters.1 ring
    rw [Nat.add_zero, Nat.min_eq_right (Nat.le_sub_one_of_lt hlt), PerRing.upd_sel]
  have hstep : step s = exec i (s.select .p) := step_of_turn (by simpa using hturns) h.presented h.decoded
  rw [hstep, h.exec_eq (x := s.select .p) rfl h.running rfl rfl, State.batchStep_idle (s := s.select .p) h.between,
    State.latch_of_ne h.nonempty, State.wdata_of_presented (s := s.select .p) rfl hpres,
    State.time_of_presented (s := s.select .p) rfl hpres, State.batchAt, hput, hlost, BitVec.ofNat_toNat,
    BitVec.setWidth_eq, List.drop_one]
  rfl

/-! Pass 1 -/

theorem step_walk (h : s.BatchStart cmd i ring n retry rest tl) {b : BatchPoint} (hb : b.steps < 2 * n.toNat + 2)
    (hphase : b.phase = .pass1) (hpos : 1 ≤ b.frame) (hle : b.frame ≤ n.toNat) :
    step (s.batchAt cmd ring n retry b) = .next (s.batchAt cmd ring n retry { b with
      steps := b.steps + 1, frame := b.frame - 1, scratch := b.scratch.write (b.frame - 1) b.time
      time := subW s.cfg.tsW b.time (s.frameDur cmd retry ring (b.frame - 1))
      phase := if b.frame = 1 then .pass2 else .pass1 }) := by
  have hn := n.isLt
  have hframe : (BitVec.ofNat 16 b.frame).toNat = b.frame := by rw [BitVec.toNat_ofNat]; omega
  have hpred : BitVec.ofNat 16 b.frame - 1 = BitVec.ofNat 16 (b.frame - 1) := by bv_omega
  obtain ⟨x, hx⟩ : ∃ x, x = s.batchAt cmd ring n retry { b with steps := b.steps + 1 } := ⟨_, rfl⟩
  have hpI : x.pI.toNat = b.frame := by rw [hx]; exact hframe
  have hmax : x.pI.toNat ≤ x.cfg.batchMax := by rw [hpI, hx]; exact hle.trans h.bounded
  rw [h.step_batchAt hb, ← hx, State.batchStep_pass1 (by rw [hx]; exact hphase),
    State.passOne_of_le (by rw [hpI]; exact hpos) hmax, hpI, hx]
  unfold State.batchAt
  simp only [hpred]
  rfl

/-- After LATCH and `k` steps of pass 1 the newest `k` frames have their times in the scratch, and the next older one's time
is the running one. -/
theorem run_passOne (h : s.BatchStart cmd i ring n retry rest tl) {k : Nat} (hk : k ≤ n.toNat) :
    ∃ time scratch, Sys2Proof.core.run (k + 1) s = .next (s.batchAt cmd ring n retry
        ⟨k + 1, if k < n.toNat then .pass1 else .pass2, n.toNat - k, time, scratch, 0, 0⟩)
      ∧ (k < n.toNat →
          time = batchTime s.cfg.tsW (s.frameDur cmd retry ring) cmd.opa.toNat n.toNat (n.toNat - 1 - k))
      ∧ ∀ j, n.toNat - k ≤ j → j < n.toNat →
          scratch.read j = some (batchTime s.cfg.tsW (s.frameDur cmd retry ring) cmd.opa.toNat n.toNat j) := by
  induction k with
  | zero =>
    refine ⟨_, s.pTmp, (run_succ (M := Sys2Proof.core) h.step_latch 0).trans ?_, fun _ => (batchTime_last ..).symm,
      fun j hlo hhi => by omega⟩
    rw [if_pos h.n_pos]
    rfl
  | succ k ih =>
    obtain ⟨time, scratch, hrun, htime, hscratch⟩ := ih (Nat.le_of_succ_le hk)
    have hleft : k < n.toNat := hk
    rw [if_pos hleft] at hrun
    have hprev : n.toNat - (k + 1) = n.toNat - k - 1 := by omega
    have hphase : (if k + 1 < n.toNat then Phase.pass1 else .pass2) = if n.toNat - k = 1 then .pass2 else .pass1 := by
      by_cases hmore : k + 1 < n.toNat
      · rw [if_pos hmore, if_neg (by omega)]
      · rw [if_neg hmore, if_pos (by omega)]
    have hstep := h.step_walk (b := ⟨k + 1, .pass1, n.toNat - k, time, scratch, 0, 0⟩) (by dsimp only; omega) rfl
      (Nat.sub_pos_of_lt hleft) (Nat.sub_le ..)
    refine ⟨subW s.cfg.tsW time (s.frameDur cmd retry ring (n.toNat - k - 1)), scratch.write (n.toNat - k - 1) time,
      (run_snoc hrun hstep).trans (by rw [hprev, hphase]), fun hlt => ?time, fun j hlo hhi => ?scratch⟩
    case time =>
      rw [batchTime_eq_subW _ _ _ (by omega), htime hleft]
      congr 2 <;> omega
    case scratch =>
      rw [Memory.read_write]
      split
      · rw [htime hleft]
        congr 2
        omega
      · exact hscratch j (by omega) hhi

/-! Pass 2 -/

theorem nextFrame_eq_iff (n : BitVec 16) {f : Nat} (hf : f < n.toNat) : BitVec.ofNat 16 f + 1 = n ↔ f + 1 = n.toNat := by
  have hn := n.isLt
  bv_omega

/-- One more entry behind those that a batch has stored. -/
theorem writeSlot_batchAt (s : State) (cmd : Command) (ring : Ring) (n : BitVec 16) (retry : BitVec 8) (b : BatchPoint)
    (steps : Nat) (phase : Phase) :
    ({ (s.batchAt cmd ring n retry { b with steps := steps }).writeSlot ring (addW s.cfg.idxW (s.put.sel ring) b.stored)
        (s.batchEntry cmd ring n retry b.stored) with
      pPut := addW s.cfg.idxW (addW s.cfg.idxW (s.put.sel ring) b.stored) 1, pStored := BitVec.ofNat 16 b.stored + 1
      pI := BitVec.ofNat 16 b.frame + 1, pPhase := phase } : State)
    = s.batchAt cmd ring n retry { b with
      steps := steps, frame := b.frame + 1, stored := b.stored + 1, phase := phase } := by
  have hcfg := s.withEntries_cfg ring (s.batchEntry cmd ring n retry) b.stored
  have hcount : BitVec.ofNat 16 b.stored + 1 = BitVec.ofNat 16 (b.stored + 1) := by bv_omega
  have hframe : BitVec.ofNat 16 b.frame + 1 = BitVec.ofNat 16 (b.frame + 1) := by bv_omega
  unfold State.batchAt
  rw [addW_addW, hcount, hframe]
  simp only [State.withEntries]
  generalize s.withEntries ring (s.batchEntry cmd ring n retry) b.stored = x at hcfg ⊢
  cases ring <;> simp only [State.writeSlot, State.slotIndex, State.entryWidth, hcfg]

/-- A frame with room in the ring is stored, with the time that pass 1 left for it. -/
theorem step_store (h : s.BatchStart cmd i ring n retry rest tl) {b : BatchPoint} (hb : b.steps < 2 * n.toNat + 2)
    (hphase : b.phase = .pass2) (hframe : b.frame < n.toNat) (hstored : b.stored = b.frame)
    (hroom : s.used ring + b.stored < s.cap ring)
    (hscratch : b.scratch.read b.frame
      = some (batchTime s.cfg.tsW (s.frameDur cmd retry ring) cmd.opa.toNat n.toNat b.frame)) :
    step (s.batchAt cmd ring n retry b) = .next (s.batchAt cmd ring n retry { b with
      steps := b.steps + 1, frame := b.frame + 1, stored := b.stored + 1
      phase := if b.frame + 1 = n.toNat then .batchPub else .pass2 }) := by
  have hn := n.isLt
  have hnat : (BitVec.ofNat 16 b.frame).toNat = b.frame := by rw [BitVec.toNat_ofNat]; omega
  have hentry : stamped s.cfg (descriptor s.cfg cmd.wdata (BitVec.ofNat 16 b.frame).toNat)
      (batchTime s.cfg.tsW (s.frameDur cmd retry ring) cmd.opa.toNat n.toNat b.frame)
      = s.batchEntry cmd ring n retry b.stored := by rw [hnat, hstored]; rfl
  obtain ⟨x, hx⟩ : ∃ x, x = s.batchAt cmd ring n retry { b with steps := b.steps + 1 } := ⟨_, rfl⟩
  have hfill : fill x.cfg.idxW x.pPut (x.get.sel x.pRing) < x.cap x.pRing := by
    rw [hx]
    exact (State.fill_addW_put h.inv hroom.le).trans_lt hroom
  have hread : x.pTmp.read x.pI.toNat
      = some (batchTime s.cfg.tsW (s.frameDur cmd retry ring) cmd.opa.toNat n.toNat b.frame) := by
    rw [hx]
    exact (congrArg b.scratch.read hnat).trans hscratch
  rw [h.step_batchAt hb, ← hx, State.batchStep_pass2 (by rw [hx]; exact hphase), State.passTwo_of_room hfill hread, hx,
    ← if_congr (nextFrame_eq_iff n hframe) rfl rfl, ← writeSlot_batchAt, ← hentry]
  rfl

/-- A frame with no room is counted as lost. -/
theorem step_drop (h : s.BatchStart cmd i ring n retry rest tl) {b : BatchPoint} (hb : b.steps < 2 * n.toNat + 2)
    (hphase : b.phase = .pass2) (hframe : b.frame < n.toNat) (hfull : s.used ring + b.stored = s.cap ring) :
    step (s.batchAt cmd ring n retry b) = .next (s.batchAt cmd ring n retry { b with
      steps := b.steps + 1, frame := b.frame + 1, dropped := b.dropped + 1
      phase := if b.frame + 1 = n.toNat then .batchPub else .pass2 }) := by
  have hcount : BitVec.ofNat 16 b.dropped + 1 = BitVec.ofNat 16 (b.dropped + 1) := by bv_omega
  have hnext : BitVec.ofNat 16 b.frame + 1 = BitVec.ofNat 16 (b.frame + 1) := by bv_omega
  have hlost := saturated_min s.cfg (s.lost.sel ring) b.dropped
  obtain ⟨x, hx⟩ : ∃ x, x = s.batchAt cmd ring n retry { b with steps := b.steps + 1 } := ⟨_, rfl⟩
  have hfill : fill x.cfg.idxW x.pPut (x.get.sel x.pRing) = x.cap x.pRing := by
    rw [hx]
    exact (State.fill_addW_put h.inv hfull.le).trans hfull
  rw [h.step_batchAt hb, ← hx, State.batchStep_pass2 (by rw [hx]; exact hphase), State.passTwo_of_full hfill, hx,
    ← if_congr (nextFrame_eq_iff n hframe) rfl rfl]
  unfold State.batchAt
  simp only [PerRing.upd_upd, PerRing.sel_upd_same, hcount, hnext, hlost]

/-- `k` steps into pass 2: the oldest frames are stored while the ring has room, the others counted. -/
theorem run_passTwo (h : s.BatchStart cmd i ring n retry rest tl) {room : Nat} (hroom : room = s.cap ring - s.used ring) :
    ∃ time scratch, ∀ k, k ≤ n.toNat → Sys2Proof.core.run (n.toNat + 1 + k) s = .next (s.batchAt cmd ring n retry
      ⟨n.toNat + 1 + k, if k = n.toNat then .batchPub else .pass2, k, time, scratch, min k room, k - room⟩) := by
  obtain ⟨time, scratch, hrun, -, hscratch⟩ := h.run_passOne (Nat.le_refl n.toNat)
  have hused := h.inv.ringFill ring
  refine ⟨time, scratch, fun k hk => ?_⟩
  induction k with
  | zero =>
    rw [if_neg (Nat.lt_irrefl _), Nat.sub_self] at hrun
    rw [if_neg h.n_pos.ne, Nat.zero_min, Nat.zero_sub]
    exact hrun
  | succ k ih =>
    have hleft : k < n.toNat := hk
    have hbefore := ih hleft.le
    rw [if_neg hleft.ne] at hbefore
    by_cases hk' : k < room
    · have hstep := h.step_store (b := ⟨n.toNat + 1 + k, .pass2, k, time, scratch, min k room, k - room⟩)
        (by dsimp only; omega) rfl hleft (Nat.min_eq_left hk'.le) (by dsimp only; omega)
        (hscratch k (by omega) hleft)
      have hstored : min (k + 1) room = min k room + 1 := by omega
      have hdropped : k + 1 - room = k - room := by omega
      rw [hstored, hdropped]
      exact run_snoc hbefore hstep
    · have hstep := h.step_drop (b := ⟨n.toNat + 1 + k, .pass2, k, time, scratch, min k room, k - room⟩)
        (by dsimp only; omega) rfl hleft (by dsimp only; omega)
      have hstored : min (k + 1) room = min k room := by omega
      have hdropped : k + 1 - room = k - room + 1 := by omega
      rw [hstored, hdropped]
      exact run_snoc hbefore hstep

/-! The publish -/

theorem addW_put_eq_put_iff (h : s.BatchStart cmd i ring n retry rest tl) {m : Nat} (hm : s.used ring + m ≤ s.cap ring) :
    addW s.cfg.idxW (s.put.sel ring) m = s.put.sel ring ↔ m = 0 := by
  refine ⟨fun heq => ?_, fun h0 => ?_⟩
  · have hfill := State.fill_addW_put h.inv hm
    rw [heq] at hfill
    change s.used ring = _ at hfill
    omega
  · rw [h0, addW_zero (h.inv.widths.indices ring).1]

/-- The whole batch. -/
theorem run_batch (h : s.BatchStart cmd i ring n retry rest tl) {stored : Nat}
    (hstored : stored = min n.toNat (s.cap ring - s.used ring)) :
    ∃ time scratch, Sys2Proof.core.run (2 * n.toNat + 2) s = .next (({
      s.batchAt cmd ring n retry ⟨2 * n.toNat + 2, .idle, n.toNat, time, scratch, stored, n.toNat - stored⟩ with
      put := s.put.upd ring (addW s.cfg.idxW (s.put.sel ring) stored)
      txAvail := if ring = .txrq then s.raisedSlots n else s.txAvail } : State).answered
      (if stored = 0 then [] else [.wake ring]) ⟨true, 0, (n.toNat - stored) * 2 ^ 16 + stored, 0⟩) := by
  have hn := n.isLt
  have hused := h.inv.ringFill ring
  obtain ⟨time, scratch, hpass⟩ := h.run_passTwo (room := s.cap ring - s.used ring) rfl
  have hbefore := hpass n.toNat (Nat.le_refl _)
  have hdropped : n.toNat - (s.cap ring - s.used ring) = n.toNat - stored := by omega
  have hsteps : n.toNat + 1 + n.toNat = 2 * n.toNat + 1 := by omega
  rw [if_pos rfl, ← hstored, hdropped, hsteps] at hbefore
  refine ⟨time, scratch, run_snoc hbefore ?_⟩
  have hval : cat (BitVec.ofNat 16 (n.toNat - stored)).toNat 16 (BitVec.ofNat 16 stored).toNat
      = (n.toNat - stored) * 2 ^ 16 + stored := by
    rw [cat, BitVec.toNat_ofNat, BitVec.toNat_ofNat, Nat.mod_eq_of_lt (by omega), Nat.mod_eq_of_lt (by omega)]
  have hstep := h.step_batchAt
    (b := ⟨2 * n.toNat + 1, .batchPub, n.toNat, time, scratch, stored, n.toNat - stored⟩) (Nat.lt_succ_self _)
  rw [State.batchStep_batchPub rfl, State.batchPub_eq] at hstep
  refine (hstep : step _ = _).trans (congrArg _ ?_)
  rw [← hval, ← if_congr (h.addW_put_eq_put_iff (by omega)) rfl rfl]
  rfl

end State.BatchStart

end Batch

/-- Settles O31: the run of the batch (`State.BatchStart.run_batch`), and what the stored entries make of the contents. -/
theorem batchRunsToPublish : Obligations.BatchRunsToPublish := by
  intro s cmd i ring n retry rest tl stored h hstored
  obtain ⟨time, scratch, hrun⟩ := h.run_batch hstored
  have hroom : s.used ring + stored ≤ s.cap ring := by
    have := h.inv.ringFill ring
    omega
  obtain ⟨t, ht⟩ : ∃ t : State, t = ({
      s.batchAt cmd ring n retry ⟨2 * n.toNat + 2, .idle, n.toNat, time, scratch, stored, n.toNat - stored⟩ with
      put := s.put.upd ring (addW s.cfg.idxW (s.put.sel ring) stored)
      txAvail := if ring = .txrq then s.raisedSlots n else s.txAvail } : State).answered
      (if stored = 0 then [] else [.wake ring]) ⟨true, 0, (n.toNat - stored) * 2 ^ 16 + stored, 0⟩ := ⟨_, rfl⟩
  rw [← ht] at hrun
  have hread : ∀ r k, t.readSlotAt r k
      = (s.withEntries ring (s.batchEntry cmd ring n retry) stored).readSlotAt r k := by
    intro r k
    rw [ht]
    cases r <;> rfl
  have hrest : ∀ r k, (∀ j, j < stored → ¬(r = ring ∧ k = s.slotIndex ring (addW s.cfg.idxW (s.put.sel ring) j))) →
      t.readSlotAt r k = s.readSlotAt r k := fun r k hk => (hread r k).trans (State.readSlotAt_withEntries_of_ne _ hk)
  obtain ⟨hring, hother⟩ := State.contents_stored
    (e := fun j => storedForm s.cfg ring (s.batchEntry cmd ring n retry j)) h.inv hroom (by rw [ht]; rfl) (by rw [ht]; rfl)
    (by rw [ht]; rfl) (fun j hj => (hread _ _).trans (State.readSlotAt_withEntries h.inv.params _ (by omega) hj)) hrest
  have hturns : s.turns.drop (2 * n.toNat + 2) = tl := by rw [h.turns, List.drop_left' List.length_replicate]
  have hevents : (if stored = 0 then [] else [Event.wake ring]).map Output.event
      = if stored = 0 then [] else [.event (.wake ring)] := by split <;> rfl
  refine ⟨t, hrun, hring, hother, hrest, ?_⟩
  rw [ht]
  unfold State.answered State.batchAt
  rw [hevents, hturns]
  simp only [h.presented, h.between, List.tail_cons]
  rfl

end Sys2Proof.Machine

/-! The times of the frames that a batch leaves in its ring (42_timestamp section 5). -/

namespace Sys2Proof.Machine

theorem State.contents_length (s : State) (r : Ring) : (s.contents r).length = s.used r := by
  rw [State.contents, List.length_map, List.length_range]

theorem batchTime_lt (w : Nat) (dur : Nat → Nat) (poll n i : Nat) : batchTime w dur poll n i < 2 ^ w := subW_lt ..

/-- Each newer frame has the time of the one before it and its own duration. -/
theorem batchTime_succ (w : Nat) (dur : Nat → Nat) (poll : Nat) {n i : Nat} (hi : i + 1 < n) :
    batchTime w dur poll n (i + 1) = addW w (batchTime w dur poll n i) (dur (i + 1)) := by
  have hback := (eq_subW_iff (batchTime_lt w dur poll n i) _ _).1 (batchTime_eq_subW w dur poll hi)
  rw [addW, hback, Nat.mod_eq_of_lt (batchTime_lt ..)]

/-- The durations behind an older frame are the more. -/
theorem newerDurations_le (dur : Nat → Nat) {n i : Nat} (hi : i < n) : newerDurations dur n i ≤ newerDurations dur n 0 := by
  induction i with
  | zero => exact Nat.le_refl _
  | succ i ih => exact Nat.le_trans (newerDurations_eq_add dur hi ▸ Nat.le_add_left ..) (ih (Nat.lt_of_succ_lt hi))

/-- Without wrap the time of a frame is the poll time less the durations behind it. -/
theorem batchTime_eq_sub {w : Nat} {dur : Nat → Nat} {poll n i : Nat} (hle : newerDurations dur n i ≤ poll % 2 ^ w) :
    batchTime w dur poll n i = poll % 2 ^ w - newerDurations dur n i := by
  have hlt := Nat.mod_lt poll (two_pow_pos w)
  rw [batchTime_eq]
  refine ((eq_subW_iff (Nat.lt_of_le_of_lt (Nat.sub_le ..) hlt) _ _).2 ?_).symm
  rw [Nat.sub_add_cancel hle, Nat.mod_mod]

/-- Settles O30: the new entries of the ring are those of O31 (`batchRunsToPublish`), so their times are `batchTime`'s. -/
theorem batchTimesMonotone : Obligations.BatchTimesMonotone := by
  rintro s t cmd i ring n retry rest tl _ _ h hwidth hrun rfl rfl j e hj
  obtain ⟨t', hrun', hring, -⟩ := batchRunsToPublish s cmd i ring n retry rest tl _ h rfl
  cases hrun.symm.trans hrun'
  have hkind : ring = .rxq ∨ ring = .txrq := h.kind.imp (fun hk => hk.2.1) fun hk => hk.2.1
  have hentry : ∀ k x, ((t.contents ring).drop (s.used ring))[k]? = some (some x) → k < n.toNat
      ∧ frameTime s.cfg x = batchTime s.cfg.tsW (s.frameDur cmd retry ring) cmd.opa.toNat n.toNat k := by
    intro k x hk
    rw [hring, List.drop_left' (s.contents_length ring), List.getElem?_map, Option.map_eq_some_iff] at hk
    obtain ⟨k', hk', hx⟩ := hk
    obtain ⟨hlt, rfl⟩ := List.getElem?_eq_some_iff.1 hk'
    rw [List.length_range] at hlt
    rw [List.getElem_range, Option.some.injEq] at hx
    exact ⟨by omega, hx ▸ frameTime_storedForm_stamped hkind hwidth (batchTime_lt ..)⟩
  obtain ⟨hjn, htime⟩ := hentry j e hj
  refine ⟨fun hlast => ?last, fun e' hj' => ?next, fun hsum => ?ordered⟩
  case last =>
    have hidx : j = n.toNat - 1 := by omega
    rw [htime, hidx, batchTime_last]
  case next =>
    obtain ⟨hj'n, htime'⟩ := hentry (j + 1) e' hj'
    rw [htime, htime', batchTime_succ _ _ _ hj'n]
  case ordered =>
    have htotal : newerDurations (s.frameDur cmd retry ring) n.toNat 0 ≤ cmd.opa.toNat % 2 ^ s.cfg.tsW := by
      simpa [newerDurations, Nat.add_comm] using hsum
    have hbehind : ∀ {k}, k < n.toNat →
        newerDurations (s.frameDur cmd retry ring) n.toNat k ≤ cmd.opa.toNat % 2 ^ s.cfg.tsW :=
      fun hk => (newerDurations_le _ hk).trans htotal
    rw [htime, batchTime_eq_sub (hbehind hjn)]
    refine ⟨Nat.sub_le .., fun e' hj' => ?_⟩
    obtain ⟨hj'n, htime'⟩ := hentry (j + 1) e' hj'
    have hle := hbehind hjn
    rw [htime', batchTime_eq_sub (hbehind hj'n)]
    rw [newerDurations_eq_add _ hj'n] at hle ⊢
    omega

end Sys2Proof.Machine
